-- ==== Sys2Proof/Word.lean ====
section
/-! DEFINITION. The words of the block: the bit vectors the spec names, and nothing else (spec/00_scope.md R7, R9).
Bit 0 is the least significant bit of every value, and every value is unsigned (R9). -/

namespace Sys2Proof

/-- A byte: a Segment Pattern, an address byte, a value byte, an operand field (R7, R24, R80). -/
abbrev Byte := BitVec 8

/-- A nibble, the index of the glyph table (R26, R150). -/
abbrev Nibble := BitVec 4

/-- A Numeric Render Value, 32 bits unsigned (R7, R37). -/
abbrev RenderValue := BitVec 32

/-- A wire frame, `FRAME16`: address in bits 15:8, value in bits 7:0 (R80). -/
abbrev Frame := BitVec 16

/-- A host command word, `cmd[71:0]` (R86). -/
abbrev CmdWord := BitVec 72

end Sys2Proof
end

