-- ==== Sys2Proof/Config.lean ====
section
/-! DEFINITION. The open parameters of spec/00_scope.md R8 and the free level of an undriven line.
Every `opaque` constant here is uninterpreted: nothing can be proved of its value, so a statement that mentions one holds
for every value. The parameters `BUF_RESET` and `SINK_OTHER` are arguments of `State.resetWith`. -/

namespace Sys2Proof

/-- `GLYPH`, the Segment Pattern of each nibble (R26, D16).
DESIGN CHOICE, log entry 6: an opaque constant.
safe: nothing is assumed of the 16 bytes, not even that bit 0 is clear. -/
opaque Config.glyph : Nibble → Byte

/-- `LETTERS`, the finite map from the named letters to their patterns (R27, D16).
DESIGN CHOICE, log entry 6: an opaque constant.
safe: no letter is assumed to exist. -/
opaque Config.letters : List (String × Byte)

/-- `MSG_READY`, the "ready" message (R28, D16).
DESIGN CHOICE, log entry 6: an opaque constant.
safe: nothing is assumed of its bytes. -/
opaque Config.msgReady : Vector Byte 8

/-- `MSG_TEST`, the test pattern (R28, D16).
DESIGN CHOICE, log entry 6: an opaque constant.
safe: nothing is assumed of its bytes. -/
opaque Config.msgTest : Vector Byte 8

/-- The three output lines (R30). -/
inductive Pin where
  /-- `CLK`, the clock line. -/
  | clk
  /-- `DIN`, the block's data output and the chip's data input. -/
  | din
  /-- `CS`, the chip-select line, active low. -/
  | cs
  deriving DecidableEq, Repr

/-- The level a line really has while `LVL` says `unspecified` (R32, U8: any value), true for high.
DESIGN CHOICE, log entry 5: a free value.
safe: no command ever makes the sink look at such a line (R170, R171), and where a bench does, nothing is known of what it sees. -/
opaque Config.undrivenLevel : Pin → Bool

namespace Machine

/-- `SINK.REG`, thirteen bytes (R39). -/
structure SinkRegs where
  digit1 : Byte
  digit2 : Byte
  digit3 : Byte
  digit4 : Byte
  digit5 : Byte
  digit6 : Byte
  digit7 : Byte
  digit8 : Byte
  decodeMode : Byte
  intensity : Byte
  scanLimit : Byte
  shutdown : Byte
  dispTest : Byte
  deriving DecidableEq, Repr, Inhabited

end Machine

/-- `SINK_OTHER`, a parameter: the treatment of a latch over an address byte that is not listed (R8, R179, D14). -/
inductive SinkOther where
  /-- The latch is refused, the spec's default. -/
  | refuse
  /-- The frame has an effect on the chip's registers: `Config.sinkOtherEffect`. -/
  | effect
  deriving DecidableEq, Repr

/-- What a frame with an unlisted address byte makes of the registers, where the treatment is `SinkOther.effect` (R179).
DESIGN CHOICE, log entry 7: a free value.
safe: the frame is not assumed ignored, and no address bit is assumed unread (N8, G4). -/
opaque Config.sinkOtherEffect : Frame → Machine.SinkRegs → Machine.SinkRegs

end Sys2Proof
end

