-- ==== Sys2Proof/Syntax.lean ====
section
/-! DEFINITION. The one inductive of instructions: a constructor per row of spec/opcode_table.json, the seven host
commands (spec/30_encoding.md R91) and the thirteen wire frames (R83). -/

namespace Sys2Proof

/-- The instructions. `SEND` and `WRITE` have no opcode and are no instructions (R12, R91). -/
inductive Instr where
  /-- `INIT`, format N (R122). -/
  | init
  /-- `CLEARALL`, format N (R124). -/
  | clearAll
  /-- `FLUSH`, format N (R125). -/
  | flush
  /-- `IMAGE rows[0..7]`, format I (R140). -/
  | image (rows : Vector Byte 8)
  /-- `SETPIXEL row, col, mode`, format P, three 8-bit fields used as they are (R89, R141). -/
  | setPixel (row col mode : Byte)
  /-- `RENDERHEX value, dotLast, dotSecondLast`, format R (R154). -/
  | renderHex (value : RenderValue) (dotLast dotSecondLast : Bool)
  /-- `RENDERDEC value, dotLast, dotSecondLast`, format R (R156). -/
  | renderDec (value : RenderValue) (dotLast dotSecondLast : Bool)
  /-- `REG.DIGIT1`, frame `0x01vv` (R173). -/
  | regDigit1 (v : Byte)
  /-- `REG.DIGIT2`, frame `0x02vv` (R173). -/
  | regDigit2 (v : Byte)
  /-- `REG.DIGIT3`, frame `0x03vv` (R173). -/
  | regDigit3 (v : Byte)
  /-- `REG.DIGIT4`, frame `0x04vv` (R173). -/
  | regDigit4 (v : Byte)
  /-- `REG.DIGIT5`, frame `0x05vv` (R173). -/
  | regDigit5 (v : Byte)
  /-- `REG.DIGIT6`, frame `0x06vv` (R173). -/
  | regDigit6 (v : Byte)
  /-- `REG.DIGIT7`, frame `0x07vv` (R173). -/
  | regDigit7 (v : Byte)
  /-- `REG.DIGIT8`, frame `0x08vv` (R173). -/
  | regDigit8 (v : Byte)
  /-- `REG.DECODE`, frame `0x09vv` (R174). -/
  | regDecode (v : Byte)
  /-- `REG.INTENSITY`, frame `0x0Avv` (R175). -/
  | regIntensity (v : Byte)
  /-- `REG.SCANLIMIT`, frame `0x0Bvv` (R176). -/
  | regScanLimit (v : Byte)
  /-- `REG.SHUTDOWN`, frame `0x0Cvv` (R177). -/
  | regShutdown (v : Byte)
  /-- `REG.DISPTEST`, frame `0x0Fvv` (R178). -/
  | regDispTest (v : Byte)
  deriving DecidableEq, Repr

end Sys2Proof
end

