-- ==== Sys2Proof/WellFormed.lean ====
section
/-! DEFINITION. Which instructions are legal as syntax: every field is as wide as its encoding by its type, and the one
check the spec leaves is SETPIXEL's index range (spec/30_encoding.md R89, R95). -/

namespace Sys2Proof

/-- SETPIXEL's `row` and `col` are legal when at most 7 (R95); every other operand takes any value (R88, R90, R94). -/
def Instr.wf : Instr → Bool
  | .setPixel row col _ => decide (row.toNat ≤ 7) && decide (col.toNat ≤ 7)
  | .init => true
  | .clearAll => true
  | .flush => true
  | .image _ => true
  | .renderHex _ _ _ => true
  | .renderDec _ _ _ => true
  | .regDigit1 _ => true
  | .regDigit2 _ => true
  | .regDigit3 _ => true
  | .regDigit4 _ => true
  | .regDigit5 _ => true
  | .regDigit6 _ => true
  | .regDigit7 _ => true
  | .regDigit8 _ => true
  | .regDecode _ => true
  | .regIntensity _ => true
  | .regScanLimit _ => true
  | .regShutdown _ => true
  | .regDispTest _ => true

/-- Whether the instruction is one of the seven commands the host may issue (R91), rather than a wire frame (R83). -/
def Instr.isCommand : Instr → Bool
  | .init => true
  | .clearAll => true
  | .flush => true
  | .image _ => true
  | .setPixel _ _ _ => true
  | .renderHex _ _ _ => true
  | .renderDec _ _ _ => true
  | .regDigit1 _ => false
  | .regDigit2 _ => false
  | .regDigit3 _ => false
  | .regDigit4 _ => false
  | .regDigit5 _ => false
  | .regDigit6 _ => false
  | .regDigit7 _ => false
  | .regDigit8 _ => false
  | .regDecode _ => false
  | .regIntensity _ => false
  | .regScanLimit _ => false
  | .regShutdown _ => false
  | .regDispTest _ => false

end Sys2Proof
end

