-- ==== Sys2Proof/Decode.lean ====
section
/-! DEFINITION. The decoder of both encodings, total on any word and rejecting by name, and after it the encoder
(spec/30_encoding.md R80 to R97, spec/opcode_table.json). -/

namespace Sys2Proof

/-- Why a word decodes to nothing. -/
inductive DecodeError where
  /-- `op` is `0x00` or `0x08` to `0xFF` (R92). -/
  | illegalOpcode (op : Byte)
  /-- The address byte is none of the thirteen (R85, R179). -/
  | unlistedAddress (a : Byte)
  deriving DecidableEq, Repr

/-- The byte of a word whose lowest bit is bit `lo`. -/
def byteOf {n : Nat} (w : BitVec n) (lo : Nat) : Byte := w.extractLsb' lo 8

/-- The opcode `op = cmd[71:64]` (R86). -/
def opcodeOf (w : CmdWord) : Byte := byteOf w 64

/-- Format I: `rows[i] = arg[63-8*i : 56-8*i]`, so `rows[0]` is the most significant byte (R88, D20). -/
def rowsOf (w : CmdWord) : Vector Byte 8 :=
  #v[byteOf w 56, byteOf w 48, byteOf w 40, byteOf w 32, byteOf w 24, byteOf w 16, byteOf w 8, byteOf w 0]

/-- Format R: `value = arg[31:0]` (R90). -/
def valueOf (w : CmdWord) : RenderValue := w.extractLsb' 0 32

/-- A host command word (R86 to R94).
Only `op` selects the command, and the ignored bits are not read (R91, R93).
The encoding is the spec's own decision (DESIGN CHOICE, log entry 14; safe: only a name for the call). -/
def decodeCommand (w : CmdWord) : Except DecodeError Instr :=
  match opcodeOf w with
  | 0x01#8 => .ok .init
  | 0x02#8 => .ok .clearAll
  | 0x03#8 => .ok .flush
  | 0x04#8 => .ok (.image (rowsOf w))
  | 0x05#8 => .ok (.setPixel (byteOf w 16) (byteOf w 8) (byteOf w 0))
  | 0x06#8 => .ok (.renderHex (valueOf w) (w.getLsbD 32) (w.getLsbD 33))
  | 0x07#8 => .ok (.renderDec (valueOf w) (w.getLsbD 32) (w.getLsbD 33))
  | op => .error (.illegalOpcode op)

/-- The address byte of a frame, bits 15:8 (R80). -/
def frameAddress (f : Frame) : Byte := byteOf f 8

/-- The value byte of a frame, bits 7:0 (R80). -/
def frameValue (f : Frame) : Byte := byteOf f 0

/-- A wire frame: the whole address byte is compared (R82, R83). -/
def decodeFrame (f : Frame) : Except DecodeError Instr :=
  match frameAddress f with
  | 0x01#8 => .ok (.regDigit1 (frameValue f))
  | 0x02#8 => .ok (.regDigit2 (frameValue f))
  | 0x03#8 => .ok (.regDigit3 (frameValue f))
  | 0x04#8 => .ok (.regDigit4 (frameValue f))
  | 0x05#8 => .ok (.regDigit5 (frameValue f))
  | 0x06#8 => .ok (.regDigit6 (frameValue f))
  | 0x07#8 => .ok (.regDigit7 (frameValue f))
  | 0x08#8 => .ok (.regDigit8 (frameValue f))
  | 0x09#8 => .ok (.regDecode (frameValue f))
  | 0x0A#8 => .ok (.regIntensity (frameValue f))
  | 0x0B#8 => .ok (.regScanLimit (frameValue f))
  | 0x0C#8 => .ok (.regShutdown (frameValue f))
  | 0x0F#8 => .ok (.regDispTest (frameValue f))
  | a => .error (.unlistedAddress a)

/-- An instruction as bits: one 72-bit command word (R86, R96) or one 16-bit frame (R80). -/
inductive Encoded where
  /-- A host command word. -/
  | command (w : CmdWord)
  /-- A wire frame. -/
  | frame (f : Frame)
  deriving DecidableEq, Repr

/-- The decoder of both spaces. -/
def decode : Encoded → Except DecodeError Instr
  | .command w => decodeCommand w
  | .frame f => decodeFrame f

/-- What the host's table check reads: `nbits` tells a 16-bit frame from a 72-bit command word, and `w` holds the
word's bits with bit 0 the least significant, as the table numbers them. -/
def decodeTableWord (nbits w : Nat) : Option Instr :=
  if nbits ≤ 16 then (decodeFrame (BitVec.ofNat 16 w)).toOption
  else if nbits ≤ 72 then (decodeCommand (BitVec.ofNat 72 w)).toOption
  else none

/-- Format N: `op`, then 64 ignored bits written as 0 (R87, R97). -/
def encodeN (op : Byte) : CmdWord := op ++ 0#64

/-- Format I (R88). -/
def encodeI (op : Byte) (r : Vector Byte 8) : CmdWord :=
  op ++ r[0] ++ r[1] ++ r[2] ++ r[3] ++ r[4] ++ r[5] ++ r[6] ++ r[7]

/-- Format P: bits 63:24 ignored, written as 0 (R89, R97). -/
def encodeP (op row col mode : Byte) : CmdWord := op ++ 0#40 ++ row ++ col ++ mode

/-- Format R: bits 63:34 ignored, written as 0; `dotSecondLast` above `dotLast` above `value` (R90, R97). -/
def encodeR (op : Byte) (value : RenderValue) (dotLast dotSecondLast : Bool) : CmdWord :=
  op ++ 0#30 ++ BitVec.ofBool dotSecondLast ++ BitVec.ofBool dotLast ++ value

/-- A frame: address, then value (R80). -/
def encodeFrame (a v : Byte) : Frame := a ++ v

/-- The encoder, written from the tables of R83, R87 to R91 and the assembler's rule that ignored bits are 0 (R97). -/
def encode : Instr → Encoded
  | .init => .command (encodeN 0x01#8)
  | .clearAll => .command (encodeN 0x02#8)
  | .flush => .command (encodeN 0x03#8)
  | .image rows => .command (encodeI 0x04#8 rows)
  | .setPixel row col mode => .command (encodeP 0x05#8 row col mode)
  | .renderHex value l sl => .command (encodeR 0x06#8 value l sl)
  | .renderDec value l sl => .command (encodeR 0x07#8 value l sl)
  | .regDigit1 v => .frame (encodeFrame 0x01#8 v)
  | .regDigit2 v => .frame (encodeFrame 0x02#8 v)
  | .regDigit3 v => .frame (encodeFrame 0x03#8 v)
  | .regDigit4 v => .frame (encodeFrame 0x04#8 v)
  | .regDigit5 v => .frame (encodeFrame 0x05#8 v)
  | .regDigit6 v => .frame (encodeFrame 0x06#8 v)
  | .regDigit7 v => .frame (encodeFrame 0x07#8 v)
  | .regDigit8 v => .frame (encodeFrame 0x08#8 v)
  | .regDecode v => .frame (encodeFrame 0x09#8 v)
  | .regIntensity v => .frame (encodeFrame 0x0A#8 v)
  | .regScanLimit v => .frame (encodeFrame 0x0B#8 v)
  | .regShutdown v => .frame (encodeFrame 0x0C#8 v)
  | .regDispTest v => .frame (encodeFrame 0x0F#8 v)

end Sys2Proof
end

