-- ==== Sys2Proof/Machine/State.lean ====
section
/-! DEFINITION. The state of spec/10_state.md R20, the reasons a step can stop, and the state after reset (R41). -/

namespace Sys2Proof.Machine

/-- One value for each of the three lines (R30). -/
structure Pins (α : Type) where
  clk : α
  din : α
  cs : α
  deriving DecidableEq, Repr

/-- The direction of a line (R31). -/
inductive Direction where
  /-- Not configured since reset. -/
  | unconfigured
  /-- Configured as an output. -/
  | out
  deriving DecidableEq, Repr

/-- The level last driven on a line (R32). -/
inductive PinLevel where
  /-- 0. -/
  | low
  /-- 1. -/
  | high
  /-- No set-level since reset (the spec's own third value, D11). -/
  | unspecified
  deriving DecidableEq, Repr

/-- A pin event, one per GPIO call (R34, D22); a level is true for 1. -/
inductive PinEvent where
  /-- `CfgOut(p)`. -/
  | cfgOut (p : Pin)
  /-- `Set(p, l)`. -/
  | set (p : Pin) (l : Bool)
  deriving DecidableEq, Repr

/-- The thirteen registers of the chip that the source names (R39). -/
inductive SinkReg where
  | digit1
  | digit2
  | digit3
  | digit4
  | digit5
  | digit6
  | digit7
  | digit8
  | decodeMode
  | intensity
  | scanLimit
  | shutdown
  | dispTest
  deriving DecidableEq, Repr

/-- What stands outside the block and comes next.
DESIGN CHOICE, log entries 1 and 2: the host's stream of commands is the model's own field.
safe: the host of R14 issues commands only, and a wire event is a move it does not have. -/
inductive Input where
  /-- The host issues a command word (R13, R86). -/
  | command (w : CmdWord)
  /-- A bench drives one pin event, as spec/95_test_vectors.md X35 to X37 do. -/
  | wire (e : PinEvent)
  deriving DecidableEq, Repr

/-- The state (R20), and `input`, the model's own. -/
structure State where
  /-- `BUF[0..7]`, index 0 leftmost (R21, R22). -/
  buf : Vector Byte 8
  /-- `DIR` (R31). -/
  dir : Pins Direction
  /-- `LVL` (R32). -/
  lvl : Pins PinLevel
  /-- `inited`, a ghost (R35). -/
  inited : Bool
  /-- `TRACE`, oldest first, a ghost (R34). -/
  trace : List PinEvent
  /-- `SINK.SR` (R38). -/
  sinkSr : Frame
  /-- `SINK.REG` (R39). -/
  sinkReg : SinkRegs
  /-- The treatment `SINK_OTHER`: a parameter of the model (R8, D14), no state of the block. It stands here because `exec`
  takes only an instruction and a state; nothing writes it (log entry 7). -/
  sinkOther : SinkOther
  /-- The inputs still to come, first one first: the model's own field, not the spec's (log entry 1). -/
  input : List Input
  deriving DecidableEq, Repr

/-- The faults: none. The block raises no exception and takes no interrupt (spec/60_exceptions.md R190 to R194), so no
step answers a fault. safe: what the source gives no meaning is refused (R195). -/
inductive Fault
  deriving DecidableEq, Repr

/-- The refusals of R11 and R195, a closed list, and the host interface's own.
A refusal stops the run and changes no state (R196). -/
inductive Refusal where
  /-- Raised by the fetch: `op` is `0x00` or `0x08` to `0xFF` (R92, D4). safe: the model says nothing of such a word. -/
  | illegalOpcode
  /-- Raised by SETPIXEL: `row > 7` or `col > 7`, undefined behaviour in the source (R95, D6).
  safe: the model says nothing of the corruption. -/
  | indexOutOfRange
  /-- Raised by CLEARALL, FLUSH, RENDERHEX, RENDERDEC while `inited` is false (R35, D13).
  safe: the source forbids the call. -/
  | notInitialised
  /-- Raised by INIT while `inited` is true (R35, D13). safe: the source forbids the call. -/
  | alreadyInitialised
  /-- Raised by the sink's latch for an address byte that is not one of the thirteen, under the default treatment
  `SinkOther.refuse` (R179, `SINK_OTHER`, D14). safe: no command reaches it (R180). -/
  | unlistedSinkAddress
  /-- Raised by an arm of exec that has no meaning yet; no arm of this model is one. safe: the run stops. -/
  | notModelled (mnemonic : String)
  deriving DecidableEq, Repr

/-- What a step answers. -/
abbrev Result := Host.Outcome State Fault Refusal

/-- The state after power-on with the given launch values of what the spec leaves unspecified (R41, R210, D10, D15):
`BUF` (the parameter `BUF_RESET`), `SINK.SR` and `SINK.REG`; and with the given treatment `SINK_OTHER` (R8). -/
def State.resetWith (buf : Vector Byte 8) (sr : Frame) (regs : SinkRegs) (other : SinkOther) : State where
  buf := buf
  dir := ⟨.unconfigured, .unconfigured, .unconfigured⟩
  lvl := ⟨.unspecified, .unspecified, .unspecified⟩
  inited := false
  trace := []
  sinkSr := sr
  sinkReg := regs
  sinkOther := other
  input := []

/-- The machine right after reset (R41).
DESIGN CHOICE, log entries 3 and 4: the launch values the spec leaves unspecified are zero here.
unsafe: a claim about this one state could lean on a zero; the model's statements about reset are over `State.resetWith`,
every launch value and either treatment. The treatment here is the default that D14 gives. -/
def State.reset : State :=
  State.resetWith #v[0, 0, 0, 0, 0, 0, 0, 0] 0 ⟨0, 0, 0, 0, 0, 0, 0, 0, 0, 0, 0, 0, 0⟩ .refuse

end Sys2Proof.Machine
end

