-- ==== Sys2Proof/Machine/Ops.lean ====
section
/-! DEFINITION. The named operations over the state: sequencing, the lines, the display buffer, the sink's registers.
There is no operation that takes an exception and none that returns from one: the block has no trap entry and no trap
return (spec/60_exceptions.md R190, R193, R194). Stopping is `refuse` (spec/00_scope.md R10, R11). -/

namespace Sys2Proof.Machine

/-- `refuse(reason)` (R10, R11, R195): the step has no meaning and changes no state. -/
def refuse (reason : Refusal) : Result := .refused reason

/-- Run `k` on the next state; a stop ends the command (R196). -/
def andThen (r : Result) (k : State → Result) : Result :=
  match r with
  | .next s => k s
  | .fault f => .fault f
  | .refused f => .refused f

/-- A loop with a fixed count, in ascending order (R10). -/
def forEach {α : Type} : List α → (α → State → Result) → State → Result
  | [], _, s => .next s
  | x :: xs, body, s => andThen (body x s) (forEach xs body)

/-- The value kept for a line. -/
def Pins.get {α : Type} (ps : Pins α) : Pin → α
  | .clk => ps.clk
  | .din => ps.din
  | .cs => ps.cs

/-- Replace the value kept for a line. -/
def Pins.set {α : Type} (ps : Pins α) (p : Pin) (x : α) : Pins α :=
  match p with
  | .clk => { ps with clk := x }
  | .din => { ps with din := x }
  | .cs => { ps with cs := x }

/-- The level a bit drives (R30): 1 is high, 0 is low. -/
def PinLevel.ofBit : Bool → PinLevel
  | true => .high
  | false => .low

/-- The level the sink sees on a line: the level driven, or the free value where none was (R32, U8, log entry 5). -/
def lineLevel (p : Pin) (s : State) : Bool :=
  match s.lvl.get p with
  | .high => true
  | .low => false
  | .unspecified => Config.undrivenLevel p

/-- `Set(p, l)` is a rising edge when `l` is 1 and the level is 0 (R170). -/
def isRisingEdge (p : Pin) (l : Bool) (s : State) : Bool := l && !lineLevel p s

/-- The block's half of `pin_set(p, l)`: the level and the trace, also when the level does not change (R10, R32, D22).
It does not look at `DIR` (R33: no run reaches an unconfigured line; DESIGN CHOICE, log entry 15; safe: no run shows it). -/
def drive (p : Pin) (l : Bool) (s : State) : State :=
  { s with lvl := s.lvl.set p (.ofBit l), trace := s.trace ++ [.set p l] }

/-- `pin_cfg(p)`: the direction and the trace; the level stays (R31, R32). -/
def pinCfg (p : Pin) (s : State) : State :=
  { s with dir := s.dir.set p .out, trace := s.trace ++ [.cfgOut p] }

/-- The sink shifts at a rising edge of `CLK`: bit 15 is lost and bit 0 takes the level of `DIN`, whatever `CS` is (R171). -/
def sinkShift (s : State) : State :=
  { s with sinkSr := (s.sinkSr <<< 1) ||| (BitVec.ofBool (lineLevel .din s)).setWidth 16 }

/-- `SINK.REG[a]` (R39). -/
def SinkRegs.get (rs : SinkRegs) : SinkReg → Byte
  | .digit1 => rs.digit1
  | .digit2 => rs.digit2
  | .digit3 => rs.digit3
  | .digit4 => rs.digit4
  | .digit5 => rs.digit5
  | .digit6 => rs.digit6
  | .digit7 => rs.digit7
  | .digit8 => rs.digit8
  | .decodeMode => rs.decodeMode
  | .intensity => rs.intensity
  | .scanLimit => rs.scanLimit
  | .shutdown => rs.shutdown
  | .dispTest => rs.dispTest

/-- `SINK.REG[a] <- v`: the whole byte (R39, R173 to R178). -/
def SinkRegs.set (rs : SinkRegs) (r : SinkReg) (v : Byte) : SinkRegs :=
  match r with
  | .digit1 => { rs with digit1 := v }
  | .digit2 => { rs with digit2 := v }
  | .digit3 => { rs with digit3 := v }
  | .digit4 => { rs with digit4 := v }
  | .digit5 => { rs with digit5 := v }
  | .digit6 => { rs with digit6 := v }
  | .digit7 => { rs with digit7 := v }
  | .digit8 => { rs with digit8 := v }
  | .decodeMode => { rs with decodeMode := v }
  | .intensity => { rs with intensity := v }
  | .scanLimit => { rs with scanLimit := v }
  | .shutdown => { rs with shutdown := v }
  | .dispTest => { rs with dispTest := v }

/-- The Register Address of each register (R39, R51, R82). -/
def SinkReg.address : SinkReg → Byte
  | .digit1 => 0x01
  | .digit2 => 0x02
  | .digit3 => 0x03
  | .digit4 => 0x04
  | .digit5 => 0x05
  | .digit6 => 0x06
  | .digit7 => 0x07
  | .digit8 => 0x08
  | .decodeMode => 0x09
  | .intensity => 0x0A
  | .scanLimit => 0x0B
  | .shutdown => 0x0C
  | .dispTest => 0x0F

/-- The register an address byte selects, the whole byte compared; no other address byte is defined (R82, R85, R172). -/
def SinkReg.ofAddress (a : Byte) : Option SinkReg :=
  match a with
  | 0x01#8 => some .digit1
  | 0x02#8 => some .digit2
  | 0x03#8 => some .digit3
  | 0x04#8 => some .digit4
  | 0x05#8 => some .digit5
  | 0x06#8 => some .digit6
  | 0x07#8 => some .digit7
  | 0x08#8 => some .digit8
  | 0x09#8 => some .decodeMode
  | 0x0A#8 => some .intensity
  | 0x0B#8 => some .scanLimit
  | 0x0C#8 => some .shutdown
  | 0x0F#8 => some .dispTest
  | _ => none

/-- The sink stores a byte in one register and nothing else changes (R173 to R178, R180 (d)). -/
def sinkWrite (r : SinkReg) (v : Byte) (s : State) : State :=
  { s with sinkReg := s.sinkReg.set r v }

/-- `BUF[i]` (R10). -/
def bufRead (i : Fin 8) (s : State) : Byte := s.buf[i]

/-- `BUF[i] <- v` (R10). -/
def bufWrite (i : Fin 8) (v : Byte) (s : State) : State := { s with buf := s.buf.set i v }

/-- `image()`: the whole buffer is replaced, in order (R140). -/
def bufReplace (rows : Vector Byte 8) (s : State) : State := { s with buf := rows }

end Sys2Proof.Machine
end

