-- ==== Sys2Proof/Machine/Operands.lean ====
section
/-! DEFINITION. The operand forms and the pure functions of the commands: SETPIXEL's index, mode and mask
(spec/30_encoding.md R94, R95, spec/42_display_buffer.md R142), the renderer's nibbles, glyphs, blanking, decimal points
and packed BCD (spec/43_renderer.md R150 to R155), and the constant port (spec/10_state.md R29). -/

namespace Sys2Proof.Machine

/-- A `row` or `col` field: an index when at most 7, else nothing; it never wraps (R95, R220). -/
def index8 (b : Byte) : Option (Fin 8) := if h : b.toNat < 8 then some ⟨b.toNat, h⟩ else none

/-- The three pixel modes (R94). -/
inductive PixelMode where
  | clear
  | set
  | toggle
  deriving DecidableEq, Repr

/-- `0x00` clears, `0x01` sets, every other value toggles (R94, C6).
The two numbers are DESIGN CHOICE (D5, log entry 14; safe: names of the call). -/
def pixelMode (b : Byte) : PixelMode :=
  match b with
  | 0x00#8 => .clear
  | 0x01#8 => .set
  | _ => .toggle

/-- Column `c` is bit `7 - c`: the mask is `0x80 >> c` (R55, R142). -/
def pixelMask (c : Fin 8) : Byte := 0x80#8 >>> c.val

/-- The edit of one byte (R141). -/
def editPixel (m : PixelMode) (mask old : Byte) : Byte :=
  match m with
  | .clear => old &&& ~~~mask
  | .set => old ||| mask
  | .toggle => old ^^^ mask

/-- `BLANK` (R7, R25). -/
def blank : Byte := 0x00

/-- `DP_MASK`, the decimal point at bit 0 (R7, R25).
UNVERIFIED, log entry 10: the source's literal, against general knowledge of the chip (D26, G1); unsafe if it is wrong. -/
def dpMask : Byte := 0x01

/-- `nib(value, k) = value[4k+3 : 4k]` (R150). -/
def nib (value : RenderValue) (k : Nat) : Nibble := value.extractLsb' (4 * k) 4

/-- `glyph(n) = GLYPH[n]` (R151). -/
def glyph (n : Nibble) : Byte := Config.glyph n

/-- What position `7 - k` shows: the glyph of nibble `k`, or blank where `k` is not 0 and nothing from nibble `k` up is
non-zero (R152).
DEDUCED, log entry 11: both renders blank leading zeros (C1, D8); unsafe if the original shows them. -/
def patternAt (value : RenderValue) (k : Nat) : Byte :=
  if k = 0 ∨ value >>> (4 * k) ≠ 0 then glyph (nib value k) else blank

/-- `hex_patterns(value)`: nibble `k` at index `7 - k` (R54, R152). -/
def hexPatterns (value : RenderValue) : Vector Byte 8 :=
  #v[patternAt value 7, patternAt value 6, patternAt value 5, patternAt value 4,
     patternAt value 3, patternAt value 2, patternAt value 1, patternAt value 0]

/-- OR the decimal point into a pattern when its flag is set (R153). -/
def addDot (dot : Bool) (p : Byte) : Byte := if dot then p ||| dpMask else p

/-- `add_dots(P, dotLast, dotSecondLast)`: index 7 and index 6, independently (R153). -/
def addDots (p : Vector Byte 8) (dotLast dotSecondLast : Bool) : Vector Byte 8 :=
  (p.set 7 (addDot dotLast p[7])).set 6 (addDot dotSecondLast p[6])

/-- The loop of `pack_bcd` from digit `k` on: digits 8 and 9 are dropped (R155, R157).
DESIGN CHOICE, log entry 12: truncation (D9); unsafe if the original does otherwise. -/
def packBcdLoop : Nat → Nat → RenderValue → RenderValue → RenderValue
  | 0, _, _, acc => acc
  | fuel + 1, k, value, acc =>
    if value = 0 then acc
    else packBcdLoop fuel (k + 1) (value / 10)
      (if k < 8 then acc ||| ((value % 10) <<< (4 * k)) else acc)

/-- `pack_bcd(value)`; a 32-bit value has at most 10 decimal digits, so 10 passes suffice (R155). -/
def packBcd (value : RenderValue) : RenderValue := packBcdLoop 10 0 value 0

/-- The constant port, `GLYPH[n]`: a pure function, no step (R29, D21). -/
def readGlyph (n : Nibble) : Byte := Config.glyph n

/-- The constant port, `LETTERS[name]`, where the map has the name (R27, R29). -/
def readLetter (name : String) : Option Byte := Config.letters.lookup name

/-- The constant port, `MSG_READY[i]` (R28, R29). -/
def readMsgReady (i : Fin 8) : Byte := Config.msgReady[i]

/-- The constant port, `MSG_TEST[i]` (R28, R29). -/
def readMsgTest (i : Fin 8) : Byte := Config.msgTest[i]

end Sys2Proof.Machine
end

