-- ==== Sys2Proof/Machine/Buffer.lean ====
section
/-! DEFINITION. The display buffer's host commands IMAGE and SETPIXEL, which send nothing (spec/42_display_buffer.md). -/

namespace Sys2Proof.Machine

/-- `IMAGE rows[0..7]` (R140). -/
def execImage (rows : Vector Byte 8) (s : State) : Result := .next (bufReplace rows s)

/-- `SETPIXEL row, col, mode` (R141): out of range is refused, never wrapped and never a no-op (R95; DESIGN CHOICE, D6,
log entry 17; safe). -/
def execSetPixel (row col mode : Byte) (s : State) : Result :=
  match index8 row, index8 col with
  | some r, some c => .next (bufWrite r (editPixel (pixelMode mode) (pixelMask c) (bufRead r s)) s)
  | _, _ => refuse .indexOutOfRange

end Sys2Proof.Machine
end

