-- ==== Sys2Proof/Machine/Flags.lean ====
section
/-! DEFINITION. The block has no status flag and no condition code (spec/10_state.md R40), so there is no flag
computation. The one flag-like state is the ghost `inited` (R35), and here are the two checks on it. -/

namespace Sys2Proof.Machine

/-- `if not inited: refuse(not_initialised)`, before anything else (R35, R192, R195; DESIGN CHOICE, log entry 13; safe). -/
def whenInitialised (s : State) (k : State → Result) : Result :=
  if s.inited then k s else refuse .notInitialised

/-- `if inited: refuse(already_initialised)` (R35, R192, R195; DESIGN CHOICE, log entry 13; safe). -/
def whenUninitialised (s : State) (k : State → Result) : Result :=
  if s.inited then refuse .alreadyInitialised else k s

/-- `inited <- true` (R122). -/
def setInitialised (s : State) : State := { s with inited := true }

end Sys2Proof.Machine
end

