-- ==== Sys2Proof/Machine/Sink.lean ====
section
/-! DEFINITION. The meanings of the thirteen wire frames, one definition each (spec/44_sink_registers.md R173 to R178).
A frame's own effect is `SINK.REG[a] <- v`; the pin events that carry a frame to the sink belong to the wire
(Machine/Wire.lean) and to the fetch (Machine/Fetch.lean).
DESIGN CHOICE, log entry 2: a frame is an instruction of the sink, run at the latch. safe: no host move reaches it alone. -/

namespace Sys2Proof.Machine

/-- `REG.DIGIT1` (R173). -/
def execRegDigit1 (v : Byte) (s : State) : Result := .next (sinkWrite .digit1 v s)

/-- `REG.DIGIT2` (R173). -/
def execRegDigit2 (v : Byte) (s : State) : Result := .next (sinkWrite .digit2 v s)

/-- `REG.DIGIT3` (R173). -/
def execRegDigit3 (v : Byte) (s : State) : Result := .next (sinkWrite .digit3 v s)

/-- `REG.DIGIT4` (R173). -/
def execRegDigit4 (v : Byte) (s : State) : Result := .next (sinkWrite .digit4 v s)

/-- `REG.DIGIT5` (R173). -/
def execRegDigit5 (v : Byte) (s : State) : Result := .next (sinkWrite .digit5 v s)

/-- `REG.DIGIT6` (R173). -/
def execRegDigit6 (v : Byte) (s : State) : Result := .next (sinkWrite .digit6 v s)

/-- `REG.DIGIT7` (R173). -/
def execRegDigit7 (v : Byte) (s : State) : Result := .next (sinkWrite .digit7 v s)

/-- `REG.DIGIT8` (R173). -/
def execRegDigit8 (v : Byte) (s : State) : Result := .next (sinkWrite .digit8 v s)

/-- `REG.DECODE` (R174): the byte is stored, whatever it means to the display (D27). -/
def execRegDecode (v : Byte) (s : State) : Result := .next (sinkWrite .decodeMode v s)

/-- `REG.INTENSITY` (R175). -/
def execRegIntensity (v : Byte) (s : State) : Result := .next (sinkWrite .intensity v s)

/-- `REG.SCANLIMIT` (R176). -/
def execRegScanLimit (v : Byte) (s : State) : Result := .next (sinkWrite .scanLimit v s)

/-- `REG.SHUTDOWN` (R177). -/
def execRegShutdown (v : Byte) (s : State) : Result := .next (sinkWrite .shutdown v s)

/-- `REG.DISPTEST` (R178): what display-test overrides is the display, which is not modelled (R64, D27). -/
def execRegDispTest (v : Byte) (s : State) : Result := .next (sinkWrite .dispTest v s)

/-- The meaning of the frame that addresses a register. -/
def runFrame (r : SinkReg) (v : Byte) (s : State) : Result :=
  match r with
  | .digit1 => execRegDigit1 v s
  | .digit2 => execRegDigit2 v s
  | .digit3 => execRegDigit3 v s
  | .digit4 => execRegDigit4 v s
  | .digit5 => execRegDigit5 v s
  | .digit6 => execRegDigit6 v s
  | .digit7 => execRegDigit7 v s
  | .digit8 => execRegDigit8 v s
  | .decodeMode => execRegDecode v s
  | .intensity => execRegIntensity v s
  | .scanLimit => execRegScanLimit v s
  | .shutdown => execRegShutdown v s
  | .dispTest => execRegDispTest v s

/-- A latch over an address byte that is not listed (R179): the treatment `SINK_OTHER` says what happens, and the shift
register keeps its value either way (R172).
DESIGN CHOICE, log entry 7; safe: the default stops the run, and the other treatment leaves the registers free. -/
def latchUnlisted (s : State) : Result :=
  match s.sinkOther with
  | .refuse => refuse .unlistedSinkAddress
  | .effect => .next { s with sinkReg := Config.sinkOtherEffect s.sinkSr s.sinkReg }

/-- The latch (R172): the shift register's high byte selects the register, its low byte is stored, and the shift
register keeps its value; another address byte is treated as `SINK_OTHER` says (R179).
Latching on the rising edge of `CS` is PRESUMED (G2, log entry 8; unsafe: a chip that latches elsewhere differs). -/
def sinkLatch (s : State) : Result :=
  match SinkReg.ofAddress (frameAddress s.sinkSr) with
  | some r => runFrame r (frameValue s.sinkSr) s
  | none => latchUnlisted s

end Sys2Proof.Machine
end

