-- ==== Sys2Proof/Machine/Wire.lean ====
section
/-! DEFINITION. The bit transport and the frame: `pin_set` with the sink's reaction, `SEND` and `WRITE`
(spec/40_bit_transport.md, spec/41_register_protocol.md R120, spec/44_sink_registers.md R170). -/

namespace Sys2Proof.Machine

/-- `pin_set(p, l)`: the level and the trace, then the sink's reaction to a rising edge of `CLK` or `CS`; nothing else
moves the sink (R10, R170).
UNVERIFIED, log entry 9: the chip sees every level change (`TIMING_OK`, D25); unsafe if the real chip misses an edge. -/
def pinSet (p : Pin) (l : Bool) (s : State) : Result :=
  match p with
  | .clk => .next (if isRisingEdge .clk l s then sinkShift (drive .clk l s) else drive .clk l s)
  | .din => .next (drive .din l s)
  | .cs => if isRisingEdge .cs l s then sinkLatch (drive .cs l s) else .next (drive .cs l s)

/-- Any pin event, as the wire carries it. -/
def pinEvent (e : PinEvent) (s : State) : Result :=
  match e with
  | .cfgOut p => .next (pinCfg p s)
  | .set p l => pinSet p l s

/-- One bit of `SEND`: clock low, data, clock high, in this order (R66, R110, R215). -/
def sendBit (b : Bool) (s : State) : Result :=
  andThen (pinSet .clk false s) fun s =>
  andThen (pinSet .din b s) fun s =>
  pinSet .clk true s

/-- `SEND(b)`: for `k` = 0 to 7 the bit `b[7-k]` (R52, R110). -/
def send (b : Byte) (s : State) : Result :=
  forEach [0, 1, 2, 3, 4, 5, 6, 7] (fun k => sendBit (b.getLsbD (7 - k))) s

/-- `WRITE(a, v)`: one frame, chip-select low, address, value, chip-select high; `a` is not checked (R120). -/
def write (a v : Byte) (s : State) : Result :=
  andThen (pinSet .cs false s) fun s =>
  andThen (send a s) fun s =>
  andThen (send v s) fun s =>
  pinSet .cs true s

end Sys2Proof.Machine
end

