-- ==== Sys2Proof/Machine/Protocol.lean ====
section
/-! DEFINITION. The register protocol's host commands INIT, CLEARALL and FLUSH (spec/41_register_protocol.md). -/

namespace Sys2Proof.Machine

/-- The five control frames of INIT, in this order (R122, R123, R214). -/
def initControlFrames : List (Byte × Byte) :=
  [(0x09, 0x00), (0x0A, 0x01), (0x0B, 0x07), (0x0C, 0x01), (0x0F, 0x00)]

/-- `for a = 1 to 8: WRITE(a, 0x00)`: the body of CLEARALL, without its check (R122, R124). -/
def clearDigits (s : State) : Result :=
  forEach [0x01, 0x02, 0x03, 0x04, 0x05, 0x06, 0x07, 0x08] (fun a => write a 0x00) s

/-- `for i = 0 to 7: WRITE(i + 1, BUF[i])`: the body of FLUSH, without its check (R125). -/
def flushBuf (s : State) : Result :=
  forEach [0, 1, 2, 3, 4, 5, 6, 7] (fun (i : Fin 8) s => write (BitVec.ofNat 8 (i.val + 1)) (bufRead i s) s) s

/-- The three configurations, CLK, DIN, CS (R122; the order is DESIGN CHOICE, D12, log entry 16; unsafe for a claim about
the trace's first three events). -/
def configureLines (s : State) : State := pinCfg .cs (pinCfg .din (pinCfg .clk s))

/-- `INIT` (R122). -/
def execInit (s : State) : Result :=
  whenUninitialised s fun s =>
  andThen (forEach initControlFrames (fun f => write f.1 f.2) (configureLines s)) fun s =>
  andThen (clearDigits s) fun s =>
  .next (setInitialised s)

/-- `CLEARALL` (R124). -/
def execClearAll (s : State) : Result := whenInitialised s clearDigits

/-- `FLUSH` (R125): the buffer sent is `BUF` (D7). -/
def execFlush (s : State) : Result := whenInitialised s flushBuf

end Sys2Proof.Machine
end

