-- ==== Sys2Proof/Machine/Renderer.lean ====
section
/-! DEFINITION. The renderer's host commands RENDERHEX and RENDERDEC (spec/43_renderer.md R154, R156). -/

namespace Sys2Proof.Machine

/-- A render of a packed value: the patterns with their dots, `image()`, then `flush()` (R154). -/
def renderPacked (value : RenderValue) (dotLast dotSecondLast : Bool) (s : State) : Result :=
  flushBuf (bufReplace (addDots (hexPatterns value) dotLast dotSecondLast) s)

/-- `RENDERHEX value, dotLast, dotSecondLast` (R154): the check comes first, so a refused render keeps `BUF`. -/
def execRenderHex (value : RenderValue) (dotLast dotSecondLast : Bool) (s : State) : Result :=
  whenInitialised s (renderPacked value dotLast dotSecondLast)

/-- `RENDERDEC value, dotLast, dotSecondLast` (R156): the render of `pack_bcd(value)`. -/
def execRenderDec (value : RenderValue) (dotLast dotSecondLast : Bool) (s : State) : Result :=
  whenInitialised s (renderPacked (packBcd value) dotLast dotSecondLast)

end Sys2Proof.Machine
end

