-- ==== Sys2Proof/Machine/Dispatch.lean ====
section
/-! DEFINITION. One arm per constructor of Instr, each one direct call of a meaning. -/

namespace Sys2Proof.Machine

def exec (i : Instr) (s : State) : Host.Outcome State Fault Refusal :=
  match i with
  | .init => Sys2Proof.Machine.execInit s
  | .clearAll => Sys2Proof.Machine.execClearAll s
  | .flush => Sys2Proof.Machine.execFlush s
  | .image rows => Sys2Proof.Machine.execImage rows s
  | .setPixel row col mode => Sys2Proof.Machine.execSetPixel row col mode s
  | .renderHex value dotLast dotSecondLast => Sys2Proof.Machine.execRenderHex value dotLast dotSecondLast s
  | .renderDec value dotLast dotSecondLast => Sys2Proof.Machine.execRenderDec value dotLast dotSecondLast s
  | .regDigit1 v => Sys2Proof.Machine.execRegDigit1 v s
  | .regDigit2 v => Sys2Proof.Machine.execRegDigit2 v s
  | .regDigit3 v => Sys2Proof.Machine.execRegDigit3 v s
  | .regDigit4 v => Sys2Proof.Machine.execRegDigit4 v s
  | .regDigit5 v => Sys2Proof.Machine.execRegDigit5 v s
  | .regDigit6 v => Sys2Proof.Machine.execRegDigit6 v s
  | .regDigit7 v => Sys2Proof.Machine.execRegDigit7 v s
  | .regDigit8 v => Sys2Proof.Machine.execRegDigit8 v s
  | .regDecode v => Sys2Proof.Machine.execRegDecode v s
  | .regIntensity v => Sys2Proof.Machine.execRegIntensity v s
  | .regScanLimit v => Sys2Proof.Machine.execRegScanLimit v s
  | .regShutdown v => Sys2Proof.Machine.execRegShutdown v s
  | .regDispTest v => Sys2Proof.Machine.execRegDispTest v s

end Sys2Proof.Machine
end

