-- ==== Sys2Proof/Machine/Fetch.lean ====
section
/-! DEFINITION. What comes next: the block fetches no stored program (spec/10_state.md R36), the host hands it one command
at a time (spec/00_scope.md R13, R14), and a frame comes to the sink's registers at the latch (spec/44_sink_registers.md
R172). DESIGN CHOICE, log entries 1 and 2; safe: a superset of the host's moves. -/

namespace Sys2Proof.Machine

/-- What a step has to do. -/
inductive Fetched where
  /-- No input is pending: the block is idle (R211). -/
  | idle
  /-- The word has no meaning (R92). -/
  | reject (reason : Refusal)
  /-- Run the instruction from this state. -/
  | run (i : Instr) (s : State)
  /-- A wire event that closes no listed frame, from this state. -/
  | event (e : PinEvent) (s : State)

/-- Whether the event is the one that makes the sink latch: a rising edge of `CS` (R172). -/
def closesFrame (e : PinEvent) (s : State) : Bool :=
  match e with
  | .set .cs l => isRisingEdge .cs l s
  | .set .clk _ => false
  | .set .din _ => false
  | .cfgOut _ => false

/-- Take the first input off the queue. A command word is decoded (R86 to R93). A wire event that closes a frame drives
`CS` high, and the frame the sink holds is the instruction (R172); any other wire event, a latch over an unlisted address
byte (R179) among them, is only that event. -/
def fetch (s : State) : Fetched :=
  match s.input with
  | [] => .idle
  | .command w :: rest =>
    match decodeCommand w with
    | .ok i => .run i { s with input := rest }
    | .error _ => .reject .illegalOpcode
  | .wire e :: rest =>
    if closesFrame e s then
      match decodeFrame s.sinkSr with
      | .ok i => .run i (drive .cs true { s with input := rest })
      | .error _ => .event e { s with input := rest }
    else .event e { s with input := rest }

/-- Put an instruction's word where the fetch takes the next one from: a frame of at most 16 bits in the sink's shift
register, with `CS` low and the closing `Set(CS, 1)` pending (X36); a command word at the head of the host's stream. -/
def placeWord (s : State) (nbits w : Nat) : State :=
  if nbits ≤ 16 then
    { s with sinkSr := BitVec.ofNat 16 w, lvl := s.lvl.set .cs .low, input := .wire (.set .cs true) :: s.input }
  else { s with input := .command (BitVec.ofNat 72 w) :: s.input }

end Sys2Proof.Machine
end

