-- ==== Sys2Proof/Machine/Step.lean ====
section
/-! DEFINITION. One step: one host command, run to completion (spec/00_scope.md R5, R11, R13). -/

namespace Sys2Proof.Machine

/-- One step. With nothing pending the block is idle and does nothing (R211). -/
def step (s : State) : Host.Outcome State Fault Refusal :=
  match fetch s with
  | .idle => .next s
  | .reject reason => refuse reason
  | .run i t => exec i t
  | .event e t => pinEvent e t

/-- The state with an instruction's word placed where `step` fetches it (log entry 1). -/
def State.withFetchWord (s : State) (nbits w : Nat) : State := placeWord s nbits w

end Sys2Proof.Machine
end

