-- ==== Sys2Proof/Safety.lean ====
section
/-! DEFINITION. The terms the statements use: the pin events the spec writes out for a byte, a frame and a command, the
receiver read off a trace, the host's contract, and the invariants. No definition here runs the machine's own operations
of the wire: they are the spec's other descriptions of the same things. -/

namespace Sys2Proof.Machine

/-- The three events of one bit: clock low, data, clock high (spec/30_encoding.md R81). -/
def bitEvents (b : Bool) : List PinEvent := [.set .clk false, .set .din b, .set .clk true]

/-- The 24 events of a byte, most significant bit first (spec/40_bit_transport.md R110). -/
def sendEvents (b : Byte) : List PinEvent :=
  [7, 6, 5, 4, 3, 2, 1, 0].flatMap fun j => bitEvents (b.getLsbD j)

/-- The 50 events of a frame: `Set(CS, 0)`, the triples of bits 15 down to 0, `Set(CS, 1)` (R81). -/
def frameEvents (f : Frame) : List PinEvent :=
  .set .cs false ::
    ([15, 14, 13, 12, 11, 10, 9, 8, 7, 6, 5, 4, 3, 2, 1, 0].flatMap fun j => bitEvents (f.getLsbD j)) ++ [.set .cs true]

/-- The events of a sequence of frames. -/
def framesEvents (fs : List Frame) : List PinEvent := fs.flatMap frameEvents

/-- The eight digit frames that show the patterns `p`, index `i` at address `i + 1` (R22, R125). -/
def digitFrames (p : Vector Byte 8) : List Frame :=
  [0x01#8 ++ p[0], 0x02#8 ++ p[1], 0x03#8 ++ p[2], 0x04#8 ++ p[3],
   0x05#8 ++ p[4], 0x06#8 ++ p[5], 0x07#8 ++ p[6], 0x08#8 ++ p[7]]

/-- Eight blank patterns (R25). -/
def blankRow : Vector Byte 8 := #v[0, 0, 0, 0, 0, 0, 0, 0]

/-- The thirteen frames of INIT, in order (R122, R123). -/
def initFrames : List Frame := [0x0900, 0x0A01, 0x0B07, 0x0C01, 0x0F00] ++ digitFrames blankRow

/-- The three configuration events of INIT (R122, D12). -/
def configEvents : List PinEvent := [.cfgOut .clk, .cfgOut .din, .cfgOut .cs]

/-- The idle line state after a transmission whose last data bit was `d` (R126). -/
def idleLines (d : Bool) : Pins PinLevel := ⟨.high, .ofBit d, .high⟩

/-- The register file with the eight digits showing `p`. -/
def SinkRegs.withDigits (rs : SinkRegs) (p : Vector Byte 8) : SinkRegs :=
  { rs with
    digit1 := p[0], digit2 := p[1], digit3 := p[2], digit4 := p[3]
    digit5 := p[4], digit6 := p[5], digit7 := p[6], digit8 := p[7] }

/-- The digit register that shows buffer index `i` (R22). -/
def digitOf (i : Fin 8) : SinkReg :=
  match i with
  | 0 => .digit1
  | 1 => .digit2
  | 2 => .digit3
  | 3 => .digit4
  | 4 => .digit5
  | 5 => .digit6
  | 6 => .digit7
  | 7 => .digit8

/-- The state after the eight digit frames of `p` went out: lines, trace and sink changed, nothing else (R124, R125). -/
def State.showing (p : Vector Byte 8) (s : State) : State :=
  { s with
    lvl := idleLines (p[7].getLsbD 0)
    trace := s.trace ++ framesEvents (digitFrames p)
    sinkSr := 0x08#8 ++ p[7]
    sinkReg := s.sinkReg.withDigits p }

/-- The number of rising edges of a line in a list of events, from a start level (R127, R170). -/
def risingEdges (p : Pin) : PinLevel → List PinEvent → Nat
  | _, [] => 0
  | l, .cfgOut _ :: es => risingEdges p l es
  | l, .set q b :: es =>
    if q = p then (if b = true ∧ l = .low then 1 else 0) + risingEdges p (.ofBit b) es
    else risingEdges p l es

/-- The levels of `DIN` at the rising edges of `CLK`, in order, from start levels of `CLK` and `DIN` (R112). -/
def sampledBits : PinLevel → PinLevel → List PinEvent → List PinLevel
  | _, _, [] => []
  | c, d, .cfgOut _ :: es => sampledBits c d es
  | c, d, .set .cs _ :: es => sampledBits c d es
  | c, _, .set .din b :: es => sampledBits c (.ofBit b) es
  | c, d, .set .clk b :: es =>
    if b = true ∧ c = .low then d :: sampledBits (.ofBit b) d es else sampledBits (.ofBit b) d es

/-- What a receiver that only watches the lines holds (spec/44_sink_registers.md R170 to R172). -/
structure Receiver where
  lvl : Pins PinLevel
  sr : Frame
  regs : SinkRegs
  deriving DecidableEq, Repr

/-- The receiver's reaction to one event: a rising edge of `CLK` shifts, a rising edge of `CS` latches (R171, R172);
an address byte that is not listed has no reaction here, since no command sends one (R180). -/
def Receiver.observe (r : Receiver) (e : PinEvent) : Receiver :=
  match e with
  | .cfgOut _ => r
  | .set p l =>
    let r' : Receiver := { r with lvl := r.lvl.set p (.ofBit l) }
    if l = true ∧ r.lvl.get p = .low then
      match p with
      | .clk => { r' with sr := r.sr.shiftConcat (decide (r.lvl.din = .high)) }
      | .din => r'
      | .cs =>
        match SinkReg.ofAddress (frameAddress r.sr) with
        | some a => { r' with regs := r.regs.set a (frameValue r.sr) }
        | none => r'
    else r'

/-- The receiver after a list of events. -/
def Receiver.receive (r : Receiver) (es : List PinEvent) : Receiver := es.foldl Receiver.observe r

/-- The receiver as it stands at power-on with the given launch values (R41). -/
def Receiver.launch (sr : Frame) (regs : SinkRegs) : Receiver :=
  ⟨⟨.unspecified, .unspecified, .unspecified⟩, sr, regs⟩

/-- What the state says of the lines and the sink. -/
def State.receiver (s : State) : Receiver := ⟨s.lvl, s.sinkSr, s.sinkReg⟩

/-- Whether an input is a command word. -/
def Input.isCommand : Input → Bool
  | .command _ => true
  | .wire _ => false

/-- The host makes only the moves it has (spec/00_scope.md R14): every pending input is a command word. -/
abbrev State.HostOnly (s : State) : Prop := s.input.all Input.isCommand = true

/-- A decoded command that the contract allows in a block that is, or is not, initialised (R195, R212, R220). -/
def allowedIn (inited : Bool) (i : Instr) : Bool :=
  match i with
  | .init => !inited
  | .clearAll => inited
  | .flush => inited
  | .image _ => true
  | .setPixel row col _ => decide (row.toNat ≤ 7) && decide (col.toNat ≤ 7)
  | .renderHex _ _ _ => inited
  | .renderDec _ _ _ => inited
  | .regDigit1 _ => false
  | .regDigit2 _ => false
  | .regDigit3 _ => false
  | .regDigit4 _ => false
  | .regDigit5 _ => false
  | .regDigit6 _ => false
  | .regDigit7 _ => false
  | .regDigit8 _ => false
  | .regDecode _ => false
  | .regIntensity _ => false
  | .regScanLimit _ => false
  | .regShutdown _ => false
  | .regDispTest _ => false

/-- The contract on the host's stream (R14, R212): legal words, INIT exactly once before anything that transmits, valid
indices, and no wire event. -/
def contract : Bool → List Input → Bool
  | _, [] => true
  | _, .wire _ :: _ => false
  | inited, .command w :: rest =>
    match decodeCommand w with
    | .ok i => allowedIn inited i && contract (inited || decide (i = .init)) rest
    | .error _ => false

/-- The reason a command is refused for, and when (R192, R195). -/
def stopReason (i : Instr) (s : State) : Option Refusal :=
  match i with
  | .init => if s.inited then some .alreadyInitialised else none
  | .clearAll => if s.inited then none else some .notInitialised
  | .flush => if s.inited then none else some .notInitialised
  | .image _ => none
  | .setPixel row col _ => if 7 < row.toNat ∨ 7 < col.toNat then some .indexOutOfRange else none
  | .renderHex _ _ _ => if s.inited then none else some .notInitialised
  | .renderDec _ _ _ => if s.inited then none else some .notInitialised
  | .regDigit1 _ => none
  | .regDigit2 _ => none
  | .regDigit3 _ => none
  | .regDigit4 _ => none
  | .regDigit5 _ => none
  | .regDigit6 _ => none
  | .regDigit7 _ => none
  | .regDigit8 _ => none
  | .regDecode _ => none
  | .regIntensity _ => none
  | .regScanLimit _ => none
  | .regShutdown _ => none
  | .regDispTest _ => none

/-- The pin events an instruction appends, and the rising edges of `CLK` and of `CS` among them: for a command R127; for a
frame instruction none, since the events that carry it belong to the wire (DESIGN CHOICE, log entry 2; safe). -/
def eventCounts : Instr → Nat × Nat × Nat
  | .init => (653, 208, 13)
  | .clearAll => (400, 128, 8)
  | .flush => (400, 128, 8)
  | .image _ => (0, 0, 0)
  | .setPixel _ _ _ => (0, 0, 0)
  | .renderHex _ _ _ => (400, 128, 8)
  | .renderDec _ _ _ => (400, 128, 8)
  | .regDigit1 _ => (0, 0, 0)
  | .regDigit2 _ => (0, 0, 0)
  | .regDigit3 _ => (0, 0, 0)
  | .regDigit4 _ => (0, 0, 0)
  | .regDigit5 _ => (0, 0, 0)
  | .regDigit6 _ => (0, 0, 0)
  | .regDigit7 _ => (0, 0, 0)
  | .regDigit8 _ => (0, 0, 0)
  | .regDecode _ => (0, 0, 0)
  | .regIntensity _ => (0, 0, 0)
  | .regScanLimit _ => (0, 0, 0)
  | .regShutdown _ => (0, 0, 0)
  | .regDispTest _ => (0, 0, 0)

/-- Whether the command may write `BUF` (R23). -/
def mayWriteBuf : Instr → Bool
  | .init => false
  | .clearAll => false
  | .flush => false
  | .image _ => true
  | .setPixel _ _ _ => true
  | .renderHex _ _ _ => true
  | .renderDec _ _ _ => true
  | .regDigit1 _ => false
  | .regDigit2 _ => false
  | .regDigit3 _ => false
  | .regDigit4 _ => false
  | .regDigit5 _ => false
  | .regDigit6 _ => false
  | .regDigit7 _ => false
  | .regDigit8 _ => false
  | .regDecode _ => false
  | .regIntensity _ => false
  | .regScanLimit _ => false
  | .regShutdown _ => false
  | .regDispTest _ => false

/-- The whole trace of a run is nothing before INIT, and after it INIT's configuration and frames followed by whole
groups of eight digit frames (R61, R84, R121, R180). -/
def State.TraceOfWholeFrames (s : State) : Prop :=
  (s.inited = false ∧ s.trace = []) ∨
    (s.inited = true ∧
      ∃ ps : List (Vector Byte 8), s.trace = configEvents ++ framesEvents (initFrames ++ ps.flatMap digitFrames))

/-- The lines: untouched before INIT, and after it configured, with `CS` and `CLK` at rest high and `DIN` driven
(R31, R32, R126). -/
def State.LinesAtRest (s : State) : Prop :=
  if s.inited then s.dir = ⟨.out, .out, .out⟩ ∧ ∃ d, s.lvl = idleLines d
  else s.dir = ⟨.unconfigured, .unconfigured, .unconfigured⟩ ∧ s.lvl = ⟨.unspecified, .unspecified, .unspecified⟩

/-- After INIT the five control registers hold what INIT wrote (R123). -/
def State.ControlsAsInit (s : State) : Prop :=
  s.inited = true →
    s.sinkReg.decodeMode = 0 ∧ s.sinkReg.intensity = 1 ∧ s.sinkReg.scanLimit = 7 ∧
    s.sinkReg.shutdown = 1 ∧ s.sinkReg.dispTest = 0

/-- The sink is what a receiver launched with `sr` and `regs` makes of the trace (R6, R170). -/
def State.SinkFollowsTrace (sr : Frame) (regs : SinkRegs) (s : State) : Prop :=
  s.receiver = (Receiver.launch sr regs).receive s.trace

/-- The block's own half of a state, without the chip's registers. -/
def State.withSink (s : State) (sr : Frame) (regs : SinkRegs) : State :=
  { s with sinkSr := sr, sinkReg := regs }

end Sys2Proof.Machine
end

