-- ==== Sys2Proof/Certificates/Slice0/Obligations.lean ====
section
/-! DEFINITION. The statements for the provers, each a proposition about the model with the rule of the spec it formalises.
Nothing is proved here. -/

open Sys2Proof Sys2Proof.Machine

/-- SEND puts the 24 events of its byte on CLK and DIN, most significant bit first, and touches nothing else but the shift register.
For every byte b and state s, SEND(b) answers a next state t: for each bit from bit 7 to bit 0 it appends clock low, data, clock high to the trace, it leaves CLK high and DIN at bit 0, and BUF, DIR, LVL[CS], inited, SINK.REG and the inputs are as before (SINK.SR may change).
Cites: R110. -/
def Obligations.SendDrivesClockLowDataClockHighMsbFirst : Prop :=
  ∀ (b : Byte) (s : State), ∃ t, send b s = .next t ∧
    t = { s with
      lvl := ⟨.high, .ofBit (b.getLsbD 0), s.lvl.cs⟩
      trace := s.trace ++ sendEvents b
      sinkSr := t.sinkSr }

/-- SEND gives exactly 8 rising clock edges, and DIN at the k-th of them is bit (b << k) & 0x80.
For every byte b and state s, SEND(b) answers a next state whose trace is the old one followed by events with exactly 8 rising edges of CLK, and the level of DIN at the k-th of them is high exactly when (b << k) & 0x80 is not zero, k = 0 to 7, whatever the lines were before.
Cites: R112. -/
def Obligations.SendPulsesTheClockEightTimesOverItsBits : Prop :=
  ∀ (b : Byte) (s : State), ∃ t es, send b s = .next t ∧ t.trace = s.trace ++ es ∧
    risingEdges .clk s.lvl.clk es = 8 ∧
    sampledBits s.lvl.clk s.lvl.din es =
      (List.range 8).map fun k => PinLevel.ofBit (decide ((b <<< k) &&& 0x80#8 ≠ 0))

/-- After SEND(b) the shift register holds its old low byte above b (the sink model is the spec's decision D14, log entry 8).
For every byte b and state s, SEND(b) answers a next state whose SINK.SR is the old SINK.SR shifted left by 8, ORed with b.
Cites: 40_bit_transport.md R112, 44_sink_registers.md R171, 92_eei_decisions.md D14. -/
def Obligations.SendLeavesItsByteInTheShiftRegister : Prop :=
  ∀ (b : Byte) (s : State), ∃ t, send b s = .next t ∧
    t.sinkSr = (s.sinkSr <<< 8) ||| b.setWidth 16

/-- WRITE to a listed address is one 50-event frame: CS low, two SENDs, CS high, 16 clock edges and one CS edge.
For every Register Address a, value v and state s, WRITE(a, v) answers a next state whose trace is the old one followed by exactly 50 events: Set(CS,0), the 24 events of SEND(a), the 24 events of SEND(v), Set(CS,1); they hold exactly 16 rising edges of CLK and one of CS, and the lines end at CS 1, CLK 1, DIN v[0].
Cites: R121. -/
def Obligations.WriteAssertsChipSelectOnceAroundTwoSends : Prop :=
  ∀ (a v : Byte) (r : SinkReg) (s : State), SinkReg.ofAddress a = some r →
    ∃ t es, write a v s = .next t ∧ t.trace = s.trace ++ es ∧
      es = .set .cs false :: (sendEvents a ++ sendEvents v) ++ [.set .cs true] ∧ es.length = 50 ∧
      risingEdges .clk s.lvl.clk es = 16 ∧ risingEdges .cs s.lvl.cs es = 1 ∧
      t.lvl.cs = .high ∧ t.lvl.clk = .high ∧ t.lvl.din = .ofBit (v.getLsbD 0)

/-- WRITE to a listed address leaves the frame in the shift register and the value in the addressed register only (sink model: D14, log entry 8).
For every Register Address a, value v and state s, WRITE(a, v) answers a next state in which SINK.SR is the frame a then v, the register a selects holds v and every other register, BUF, DIR, inited, the treatment SINK_OTHER and the inputs are as before.
Cites: 41_register_protocol.md R120, 44_sink_registers.md R180, 92_eei_decisions.md D14. -/
def Obligations.WriteLatchesItsValueAndNothingElse : Prop :=
  ∀ (a v : Byte) (r : SinkReg) (s : State), SinkReg.ofAddress a = some r →
    ∃ t, write a v s = .next t ∧ t.sinkSr = a ++ v ∧ t.sinkReg.get r = v ∧
      (∀ q, q ≠ r → t.sinkReg.get q = s.sinkReg.get q) ∧
      t.buf = s.buf ∧ t.dir = s.dir ∧ t.inited = s.inited ∧ t.sinkOther = s.sinkOther ∧ t.input = s.input

/-- Under the default SINK_OTHER = refuse, WRITE to an address byte that is none of the thirteen is refused (D14, log entry 7).
For every address byte a that selects no register, every value and every state whose treatment SINK_OTHER is refuse, WRITE(a, v) is refused with unlisted_sink_address.
Cites: 44_sink_registers.md R179, 92_eei_decisions.md D14. -/
def Obligations.WriteToUnlistedAddressIsRefused : Prop :=
  ∀ (a v : Byte) (s : State), SinkReg.ofAddress a = none → s.sinkOther = .refuse →
    write a v s = .refused .unlistedSinkAddress

/-- Set(CLK,1) shifts DIN into bit 0 when CLK was 0, whatever CS is, and shifts nothing when CLK was 1 (D14, log entry 8).
For every state with DIN driven to d: if CLK is 0, Set(CLK,1) answers the state with CLK 1, the event appended and SINK.SR shifted left by one with d in bit 0; if CLK is 1, the same without the shift.
Cites: 44_sink_registers.md R170, 44_sink_registers.md R171, 92_eei_decisions.md D14. -/
def Obligations.ClockRisingEdgeShiftsDataIn : Prop :=
  ∀ (s : State) (d : Bool), s.lvl.din = .ofBit d →
    (s.lvl.clk = .low → pinSet .clk true s = .next { s with
      lvl := { s.lvl with clk := .high }
      trace := s.trace ++ [.set .clk true]
      sinkSr := (s.sinkSr <<< 1) ||| (if d then 1#16 else 0#16) }) ∧
    (s.lvl.clk = .high → pinSet .clk true s = .next { s with trace := s.trace ++ [.set .clk true] })

/-- Falling edges, DIN sets, configurations and a repeated Set(CS,1) change nothing in the sink (D14, log entry 8).
For every state, CfgOut of any line, Set(CLK,0), Set(CS,0), Set(DIN,l), and Set(CS,1) while CS is 1 answer a next state with the event appended to the trace and SINK.SR and SINK.REG as before; a configuration sets only the direction and a set only the level.
Cites: 44_sink_registers.md R170, 10_state.md R31, 10_state.md R32, 92_eei_decisions.md D14. -/
def Obligations.EventsWithoutRisingEdgeLeaveTheSink : Prop :=
  ∀ s : State,
    (∀ p, pinEvent (.cfgOut p) s = .next { s with
      dir := s.dir.set p .out, trace := s.trace ++ [.cfgOut p] }) ∧
    (∀ p, pinEvent (.set p false) s = .next { s with
      lvl := s.lvl.set p .low, trace := s.trace ++ [.set p false] }) ∧
    (∀ l, pinEvent (.set .din l) s = .next { s with
      lvl := { s.lvl with din := .ofBit l }, trace := s.trace ++ [.set .din l] }) ∧
    (s.lvl.cs = .high → pinEvent (.set .cs true) s = .next { s with trace := s.trace ++ [.set .cs true] })

/-- A rising edge of CS does what the frame instruction in the shift register does (D14, G2, log entry 8).
For every state with CS at 0 whose SINK.SR decodes to a frame instruction i, Set(CS,1) answers exactly what exec of i answers in the state with CS at 1 and the event appended to the trace.
Cites: 44_sink_registers.md R172, 92_eei_decisions.md D14. -/
def Obligations.LatchRunsTheFrameTheSinkHolds : Prop :=
  ∀ (s : State) (i : Instr), s.lvl.cs = .low → decodeFrame s.sinkSr = .ok i →
    pinSet .cs true s =
      exec i { s with lvl := { s.lvl with cs := .high }, trace := s.trace ++ [.set .cs true] }

/-- Under the default SINK_OTHER = refuse, a rising edge of CS over a frame with an unlisted address byte is refused (D14, log entry 7).
For every state with CS at 0 whose SINK.SR decodes to no frame and whose treatment SINK_OTHER is refuse, Set(CS,1) is refused with unlisted_sink_address.
Cites: 44_sink_registers.md R179, 92_eei_decisions.md D14. -/
def Obligations.LatchOfUnlistedFrameIsRefused : Prop :=
  ∀ (s : State) (e : DecodeError), s.lvl.cs = .low → decodeFrame s.sinkSr = .error e → s.sinkOther = .refuse →
    pinSet .cs true s = .refused .unlistedSinkAddress

/-- REG.DIGIT1 to REG.DIGIT8 store the byte in their own digit register and change nothing else.
For every byte v and state s, exec of REG.DIGITn (n = 1 to 8) answers the next state in which SINK.REG[n] is v and everything else is as before.
Cites: R173. -/
def Obligations.DigitFramesStoreTheirPattern : Prop :=
  ∀ (v : Byte) (s : State),
    exec (.regDigit1 v) s = .next { s with sinkReg := { s.sinkReg with digit1 := v } } ∧
    exec (.regDigit2 v) s = .next { s with sinkReg := { s.sinkReg with digit2 := v } } ∧
    exec (.regDigit3 v) s = .next { s with sinkReg := { s.sinkReg with digit3 := v } } ∧
    exec (.regDigit4 v) s = .next { s with sinkReg := { s.sinkReg with digit4 := v } } ∧
    exec (.regDigit5 v) s = .next { s with sinkReg := { s.sinkReg with digit5 := v } } ∧
    exec (.regDigit6 v) s = .next { s with sinkReg := { s.sinkReg with digit6 := v } } ∧
    exec (.regDigit7 v) s = .next { s with sinkReg := { s.sinkReg with digit7 := v } } ∧
    exec (.regDigit8 v) s = .next { s with sinkReg := { s.sinkReg with digit8 := v } }

/-- REG.DECODE, REG.INTENSITY, REG.SCANLIMIT, REG.SHUTDOWN and REG.DISPTEST store the byte in their own register only.
For every byte v and state s, exec of each of the five control frames answers the next state in which its own register is v and everything else is as before.
Cites: R174, R175, R176, R177, R178. -/
def Obligations.ControlFramesStoreTheirByte : Prop :=
  ∀ (v : Byte) (s : State),
    exec (.regDecode v) s = .next { s with sinkReg := { s.sinkReg with decodeMode := v } } ∧
    exec (.regIntensity v) s = .next { s with sinkReg := { s.sinkReg with intensity := v } } ∧
    exec (.regScanLimit v) s = .next { s with sinkReg := { s.sinkReg with scanLimit := v } } ∧
    exec (.regShutdown v) s = .next { s with sinkReg := { s.sinkReg with shutdown := v } } ∧
    exec (.regDispTest v) s = .next { s with sinkReg := { s.sinkReg with dispTest := v } }

/-- INIT in an uninitialised block completes with the state of R213 (configuration order D12, log entry 16; sink model D14, log entry 8).
For every state with inited false, exec of INIT answers the next state in which the three lines are outputs, the lines rest at CS 1, CLK 1, DIN 0, inited is true, the trace gained the three configurations CLK, DIN, CS and the thirteen frames 0900 0A01 0B07 0C01 0F00 0100 to 0800, SINK.SR is 0x0800, the five control registers are 0, 1, 7, 1, 0 and the eight digits 0, and BUF and the inputs are as before.
Cites: 41_register_protocol.md R122, 41_register_protocol.md R123, 70_reset_and_hazards.md R213, 92_eei_decisions.md D12, 92_eei_decisions.md D13, 92_eei_decisions.md D14. -/
def Obligations.InitConfiguresAndProgramsTheChip : Prop :=
  ∀ s : State, s.inited = false → exec .init s = .next { s with
    dir := ⟨.out, .out, .out⟩
    lvl := ⟨.high, .low, .high⟩
    inited := true
    trace := s.trace ++ configEvents ++ framesEvents
      [0x0900, 0x0A01, 0x0B07, 0x0C01, 0x0F00, 0x0100, 0x0200, 0x0300, 0x0400, 0x0500, 0x0600, 0x0700, 0x0800]
    sinkSr := 0x0800
    sinkReg := ⟨0, 0, 0, 0, 0, 0, 0, 0, 0, 1, 7, 1, 0⟩ }

/-- CLEARALL in an initialised block completes: frames 0100 to 0800, the eight digits 0, BUF and control registers kept (D14, log entry 8).
For every state with inited true, exec of CLEARALL answers the next state in which the trace gained the frames 0100 0200 to 0800 in order, the eight digit registers are 0, SINK.SR is 0x0800, the lines rest at CS 1, CLK 1, DIN 0, and everything else (BUF, control registers, DIR, inited, inputs) is as before.
Cites: 41_register_protocol.md R124, 92_eei_decisions.md D13, 92_eei_decisions.md D14. -/
def Obligations.ClearAllZeroesTheDigitsInOrder : Prop :=
  ∀ s : State, s.inited = true → exec .clearAll s = .next { s with
    lvl := ⟨.high, .low, .high⟩
    trace := s.trace ++ framesEvents [0x0100, 0x0200, 0x0300, 0x0400, 0x0500, 0x0600, 0x0700, 0x0800]
    sinkSr := 0x0800
    sinkReg := { s.sinkReg with
      digit1 := 0, digit2 := 0, digit3 := 0, digit4 := 0, digit5 := 0, digit6 := 0, digit7 := 0, digit8 := 0 } }

/-- FLUSH in an initialised block completes: BUF[i] goes to digit i+1, i ascending, and nothing else changes (D7; D14, log entry 8).
For every state with inited true, exec of FLUSH answers the next state in which the trace gained the eight frames (i+1, BUF[i]), i = 0 to 7 in order, digit register i+1 holds BUF[i], SINK.SR is the last frame, the lines rest at CS 1, CLK 1, DIN BUF[7][0], and everything else is as before.
Cites: 41_register_protocol.md R125, 10_state.md R22, 92_eei_decisions.md D7, 92_eei_decisions.md D13, 92_eei_decisions.md D14. -/
def Obligations.FlushSendsEveryBufferByteInOrder : Prop :=
  ∀ s : State, s.inited = true → exec .flush s = .next { s with
    lvl := ⟨.high, .ofBit (s.buf[7].getLsbD 0), .high⟩
    trace := s.trace ++ framesEvents
      [0x01#8 ++ s.buf[0], 0x02#8 ++ s.buf[1], 0x03#8 ++ s.buf[2], 0x04#8 ++ s.buf[3],
       0x05#8 ++ s.buf[4], 0x06#8 ++ s.buf[5], 0x07#8 ++ s.buf[6], 0x08#8 ++ s.buf[7]]
    sinkSr := 0x08#8 ++ s.buf[7]
    sinkReg := { s.sinkReg with
      digit1 := s.buf[0], digit2 := s.buf[1], digit3 := s.buf[2], digit4 := s.buf[3]
      digit5 := s.buf[4], digit6 := s.buf[5], digit7 := s.buf[6], digit8 := s.buf[7] } }

/-- After the first n frames of a FLUSH the first n digits hold the buffer and the rest their old patterns (D14, log entry 8).
For every state and every n up to 8, the first n writes of FLUSH answer a next state in which digit i+1 holds BUF[i] for i < n and its old content for i >= n, and BUF is unchanged.
Cites: 20_memory.md R62, 41_register_protocol.md R125, 92_eei_decisions.md D14. -/
def Obligations.FlushUpdatesTheDigitsOneAfterAnother : Prop :=
  ∀ (n : Nat) (s : State), n ≤ 8 → ∃ t,
    forEach ([0, 1, 2, 3, 4, 5, 6, 7].take n)
      (fun (i : Fin 8) s => write (BitVec.ofNat 8 (i.val + 1)) (bufRead i s) s) s = .next t ∧
    t.buf = s.buf ∧
    ∀ i : Fin 8, t.sinkReg.get (digitOf i) = if i.val < n then s.buf[i] else s.sinkReg.get (digitOf i)

/-- IMAGE puts its eight rows in BUF in order and changes nothing else, in every state.
For every eight patterns and every state, initialised or not, exec of IMAGE answers the next state in which BUF[i] is rows[i] for every i and everything else is as before.
Cites: R140. -/
def Obligations.ImageReplacesTheWholeBuffer : Prop :=
  ∀ (rows : Vector Byte 8) (s : State), ∃ t, exec (.image rows) s = .next t ∧
    (∀ i : Fin 8, t.buf[i] = rows[i]) ∧ t = { s with buf := t.buf }

/-- SETPIXEL in range clears, sets or toggles bit 7-col of BUF[row] and changes nothing else (mode numbers: D5, log entry 14).
For every row and col up to 7, every mode and state, initialised or not, exec of SETPIXEL answers a next state in which bit 7-col of BUF[row] is 0 for mode 0, 1 for mode 1 and the complement for every other mode, the other 63 bits of BUF and everything else are as before.
Cites: 42_display_buffer.md R141, 42_display_buffer.md R142, 30_encoding.md R94, 92_eei_decisions.md D5. -/
def Obligations.SetPixelEditsExactlyOneBit : Prop :=
  ∀ (row col mode : Byte) (s : State), row.toNat ≤ 7 → col.toNat ≤ 7 →
    ∃ t, exec (.setPixel row col mode) s = .next t ∧ t = { s with buf := t.buf } ∧
      ∀ i j : Fin 8, (t.buf[i]).getLsbD j.val =
        if i.val = row.toNat ∧ j.val = 7 - col.toNat then
          (if mode = 0x00 then false else if mode = 0x01 then true else !(s.buf[i]).getLsbD j.val)
        else (s.buf[i]).getLsbD j.val

/-- Toggling twice restores the state; set then clear ends with the bit 0 and the other 63 bits kept.
For every row and col up to 7 and every state: SETPIXEL with any toggling mode, run twice, completes and gives the first state back; SETPIXEL set followed by SETPIXEL clear completes with the targeted bit 0, the other 63 bits of BUF and everything else as before. (Mode numbers are D5, log entry 14.)
Cites: 42_display_buffer.md R143, 90_conflicts.md C9, 92_eei_decisions.md D5. -/
def Obligations.PixelToggleAndSetClearLaws : Prop :=
  ∀ (row col mode : Byte) (s : State), row.toNat ≤ 7 → col.toNat ≤ 7 →
    (mode ≠ 0x00 → mode ≠ 0x01 →
      ∃ t, exec (.setPixel row col mode) s = .next t ∧ exec (.setPixel row col mode) t = .next s) ∧
    (∃ t u, exec (.setPixel row col 0x01) s = .next t ∧ exec (.setPixel row col 0x00) t = .next u ∧
      u = { s with buf := u.buf } ∧
      ∀ i j : Fin 8, (u.buf[i]).getLsbD j.val =
        if i.val = row.toNat ∧ j.val = 7 - col.toNat then false else (s.buf[i]).getLsbD j.val)

/-- RENDERHEX in an initialised block completes: glyphs with leading blanks and dots in BUF and on the digits (D8, log 11; D26, log 10; D14, log 8).
For every value, flags and state with inited true, exec of RENDERHEX answers the next state in which BUF and the eight digits hold P, where P[7-k] is the glyph of nibble k when k = 0 or value >= 16^k and 0 otherwise, ORed with 1 at index 7 if dotLast and at index 6 if dotSecondLast; the eight digit frames of P went out; everything else is as before.
Cites: 43_renderer.md R152, 43_renderer.md R153, 43_renderer.md R154, 92_eei_decisions.md D8, 92_eei_decisions.md D13, 92_eei_decisions.md D14, 92_eei_decisions.md D26. -/
def Obligations.RenderHexShowsTheNibblesOfItsValue : Prop :=
  ∀ (v : RenderValue) (l sl : Bool) (s : State), s.inited = true →
    ∃ P : Vector Byte 8, exec (.renderHex v l sl) s = .next (State.showing P { s with buf := P }) ∧
      ∀ i : Fin 8, P[i] =
        (if i.val = 7 ∨ 16 ^ (7 - i.val) ≤ v.toNat
          then Config.glyph (BitVec.ofNat 4 (v.toNat / 16 ^ (7 - i.val))) else 0x00) |||
        (if (i.val = 7 ∧ l = true) ∨ (i.val = 6 ∧ sl = true) then 0x01 else 0x00)

/-- RENDERDEC in an initialised block completes: the decimal digits of value mod 10^8 with leading blanks and dots (D8, D9; log entries 11, 12).
For every value, flags and state with inited true, exec of RENDERDEC answers the next state in which BUF and the eight digits hold P, where, with w = value mod 10^8, P[7-k] is the glyph of decimal digit k of w when k = 0 or w >= 10^k and 0 otherwise, ORed with 1 at index 7 if dotLast and at index 6 if dotSecondLast; the eight digit frames of P went out; everything else is as before.
Cites: 43_renderer.md R156, 43_renderer.md R157, 92_eei_decisions.md D8, 92_eei_decisions.md D9, 92_eei_decisions.md D13, 92_eei_decisions.md D14, 92_eei_decisions.md D26. -/
def Obligations.RenderDecShowsTheDecimalDigits : Prop :=
  ∀ (v : RenderValue) (l sl : Bool) (s : State), s.inited = true →
    ∃ P : Vector Byte 8, exec (.renderDec v l sl) s = .next (State.showing P { s with buf := P }) ∧
      ∀ i : Fin 8, P[i] =
        (if i.val = 7 ∨ 10 ^ (7 - i.val) ≤ v.toNat % 10 ^ 8
          then Config.glyph (BitVec.ofNat 4 (v.toNat % 10 ^ 8 / 10 ^ (7 - i.val) % 10)) else 0x00) |||
        (if (i.val = 7 ∧ l = true) ∨ (i.val = 6 ∧ sl = true) then 0x01 else 0x00)

/-- RENDERDEC 0, 0, 0 shows the glyph of 0 in the last position and blanks elsewhere.
pack_bcd(0) is 0, and for every state with inited true exec of RENDERDEC 0 without dots answers a next state in which BUF is seven blanks and then GLYPH[0].
Cites: R158. -/
def Obligations.RenderDecOfZeroShowsOneGlyph : Prop :=
  packBcd 0 = 0 ∧
    ∀ s : State, s.inited = true → ∃ t, exec (.renderDec 0 false false) s = .next t ∧
      t.buf = #v[0, 0, 0, 0, 0, 0, 0, Config.glyph 0]

/-- pack_bcd(value) is the sum of decimal digits 0 to 7 shifted to their nibbles; from 10^8 on, truncating is a choice (D9, log entry 12).
For every 32-bit value, pack_bcd(value) as a number is the sum for k = 0 to 7 of ((value / 10^k) mod 10) * 16^k, and every nibble of it is at most 9. For values of 10^8 and above this drops the decimal digits 8 and 9: the source leaves that open, and truncation is the choice of R157 and D9 that the model takes (log entry 12).
Cites: 43_renderer.md R155, 43_renderer.md R157, 92_eei_decisions.md D9. -/
def Obligations.PackBcdIsTheSumOfShiftedDecimalDigits : Prop :=
  ∀ v : RenderValue,
    (packBcd v).toNat = ((List.range 8).map fun k => v.toNat / 10 ^ k % 10 * 16 ^ k).sum ∧
    ∀ k < 8, (packBcd v).toNat / 16 ^ k % 16 ≤ 9

/-- Right after FLUSH, RENDERHEX and RENDERDEC every digit register holds its buffer byte (D14, log entry 8).
For every state with inited true, FLUSH, RENDERHEX and RENDERDEC of any operands answer a next state in which digit register i+1 equals BUF[i] for every i, whatever the digits and BUF held before.
Cites: 70_reset_and_hazards.md R217, 92_eei_decisions.md D13, 92_eei_decisions.md D14. -/
def Obligations.DisplayEqualsBufferAfterFlushAndRenders : Prop :=
  ∀ (i : Instr) (v : RenderValue) (l sl : Bool) (s : State), s.inited = true →
    (i = .flush ∨ i = .renderHex v l sl ∨ i = .renderDec v l sl) →
    ∃ t, exec i s = .next t ∧ ∀ j : Fin 8, t.sinkReg.get (digitOf j) = t.buf[j]

/-- INIT from reset gives the same state whatever the sink held at power-on.
For every BUF, either treatment SINK_OTHER and any two launch values of SINK.SR and SINK.REG, INIT from the reset state completes with one and the same next state.
Cites: 70_reset_and_hazards.md R213, 92_eei_decisions.md D15. -/
def Obligations.InitForgetsTheLaunchValuesOfTheSink : Prop :=
  ∀ (b : Vector Byte 8) (sr sr' : Frame) (rs rs' : SinkRegs) (o : SinkOther), ∃ t,
    exec .init (State.resetWith b sr rs o) = .next t ∧ exec .init (State.resetWith b sr' rs' o) = .next t

/-- Each command not refused appends exactly its number of pin events and edges; a frame instruction by itself appends none (a choice, log entry 2).
For every instruction and state with no reason to refuse it, exec answers a next state whose trace is the old one followed by events whose number, rising CLK edges and rising CS edges are, for the seven commands, those of R127 (INIT 653, 208, 13; CLEARALL, FLUSH and the renders 400, 128, 8; IMAGE and SETPIXEL none), and none for the thirteen frame instructions. R127 does not list the frame instructions and counts 50 events for a WRITE: that the frame instruction is the register write of R173 to R178 alone, and the events that carry it belong to the wire, is the choice of the model (log entry 2).
Cites: 41_register_protocol.md R127, 44_sink_registers.md R173, 44_sink_registers.md R174, 44_sink_registers.md R175, 44_sink_registers.md R176, 44_sink_registers.md R177, 44_sink_registers.md R178, 92_eei_decisions.md D14. -/
def Obligations.EveryCommandAppendsItsEventCount : Prop :=
  ∀ (i : Instr) (s : State), stopReason i s = none →
    ∃ t es, exec i s = .next t ∧ t.trace = s.trace ++ es ∧
      (es.length, risingEdges .clk s.lvl.clk es, risingEdges .cs s.lvl.cs es) = eventCounts i

/-- An instruction is refused for a reason exactly when R195 lists the reason and its condition holds (D6, D13; log entries 13, 17).
For every instruction, state and reason: exec is refused with the reason if and only if it is INIT with inited true and already_initialised; CLEARALL, FLUSH, RENDERHEX or RENDERDEC with inited false and not_initialised; or SETPIXEL with row or col above 7 and index_out_of_range.
Cites: 60_exceptions.md R192, 60_exceptions.md R195, 10_state.md R35, 30_encoding.md R95, 92_eei_decisions.md D6, 92_eei_decisions.md D13. -/
def Obligations.RefusalsAreExactlyTheListedOnes : Prop :=
  ∀ (i : Instr) (s : State) (r : Refusal), exec i s = .refused r ↔ stopReason i s = some r

/-- No step of a command-only host is refused for an unlisted sink address.
For every state in which only commands are pending, step is not refused with unlisted_sink_address.
Cites: 44_sink_registers.md R180, 92_eei_decisions.md D14. -/
def Obligations.HostCommandsNeverMeetAnUnlistedAddress : Prop :=
  ∀ s : State, s.HostOnly → step s ≠ .refused .unlistedSinkAddress

/-- Decoding the encoding of any instruction gives the instruction back, at every operand.
For every one of the twenty instructions and all operand values, well-formed or not, decode of encode i is i.
Cites: 30_encoding.md R80, 30_encoding.md R83, 30_encoding.md R86, 30_encoding.md R87, 30_encoding.md R88, 30_encoding.md R89, 30_encoding.md R90, 30_encoding.md R91, 92_eei_decisions.md D2, 92_eei_decisions.md D20, 92_eei_decisions.md D23. -/
def Obligations.DecodeInvertsEncode : Prop :=
  ∀ i : Instr, decode (encode i) = .ok i

/-- A frame that decodes is the encoding of what it decodes to.
For every 16-bit frame that decodes to an instruction i, encode i is that frame.
Cites: 30_encoding.md R80, 30_encoding.md R83. -/
def Obligations.FrameDecodingLosesNoBit : Prop :=
  ∀ (f : Frame) (i : Instr), decodeFrame f = .ok i → encode i = .frame f

/-- Command words that agree outside the ignored bits decode alike (D3, log entry 14).
For every two command words with the same opcode: if it is 1, 2 or 3 they decode alike; if it is 5 and their low 24 bits agree they decode alike; if it is 6 or 7 and their low 34 bits agree they decode alike.
Cites: 30_encoding.md R87, 30_encoding.md R89, 30_encoding.md R90, 30_encoding.md R91, 30_encoding.md R93, 92_eei_decisions.md D3. -/
def Obligations.IgnoredBitsChangeNothing : Prop :=
  ∀ w w' : CmdWord, w.toNat / 2 ^ 64 = w'.toNat / 2 ^ 64 →
    (w.toNat / 2 ^ 64 ∈ [1, 2, 3] → decodeCommand w = decodeCommand w') ∧
    (w.toNat / 2 ^ 64 = 5 → w.toNat % 2 ^ 24 = w'.toNat % 2 ^ 24 → decodeCommand w = decodeCommand w') ∧
    (w.toNat / 2 ^ 64 ∈ [6, 7] → w.toNat % 2 ^ 34 = w'.toNat % 2 ^ 34 → decodeCommand w = decodeCommand w')

/-- A command word decodes if and only if its opcode is 1 to 7 (D2, D4, log entry 14).
For every 72-bit word, it decodes to an instruction exactly when bits 71:64 are 1 to 7, and to the error illegal_opcode with its opcode otherwise.
Cites: 30_encoding.md R91, 30_encoding.md R92, 92_eei_decisions.md D2, 92_eei_decisions.md D4. -/
def Obligations.CommandWordsDecodeExactlyForOpcodesOneToSeven : Prop :=
  ∀ w : CmdWord,
    ((∃ i, decodeCommand w = .ok i) ↔ 1 ≤ w.toNat / 2 ^ 64 ∧ w.toNat / 2 ^ 64 ≤ 7) ∧
    (w.toNat / 2 ^ 64 = 0 ∨ 8 ≤ w.toNat / 2 ^ 64 →
      decodeCommand w = .error (.illegalOpcode (BitVec.ofNat 8 (w.toNat / 2 ^ 64))))

/-- A frame decodes if and only if its address byte is 1 to 12 or 15.
For every 16-bit frame, it decodes to an instruction exactly when bits 15:8 are 0x01 to 0x0C or 0x0F.
Cites: 30_encoding.md R82, 30_encoding.md R83, 30_encoding.md R85, 92_eei_decisions.md D14. -/
def Obligations.FramesDecodeExactlyForListedAddresses : Prop :=
  ∀ f : Frame, (∃ i, decodeFrame f = .ok i) ↔
    (1 ≤ f.toNat / 2 ^ 8 ∧ f.toNat / 2 ^ 8 ≤ 12) ∨ f.toNat / 2 ^ 8 = 15

/-- Words written out in the spec decode to the commands and frames they stand for.
The words of R97, X9, X17d, X40, X43 and the frames 0408 and 0A01 decode to the instructions the spec writes beside them.
Cites: 30_encoding.md R97, 30_encoding.md R83, 95_test_vectors.md X9, 95_test_vectors.md X43. -/
def Obligations.SampleWordsDecodeAsTheSpecWritesThem : Prop :=
  decodeCommand 0x070000000000003039 = .ok (.renderDec 12345 false false) ∧
    decodeCommand 0x0600000001ABCDEF01 = .ok (.renderHex 0xABCDEF01 true false) ∧
    decodeCommand 0x050000000000070702 = .ok (.setPixel 7 7 2) ∧
    decodeCommand 0x040102040810204080 = .ok (.image #v[0x01, 0x02, 0x04, 0x08, 0x10, 0x20, 0x40, 0x80]) ∧
    decodeCommand 0x05DEADBEEF00030402 = .ok (.setPixel 3 4 2) ∧
    decodeCommand 0x01FFFFFFFFFFFFFFFF = .ok .init ∧
    decodeCommand 0x0600000004ABCDEF01 = .ok (.renderHex 0xABCDEF01 false false) ∧
    decodeFrame 0x0408 = .ok (.regDigit4 0x08) ∧
    decodeFrame 0x0A01 = .ok (.regIntensity 0x01)

/-- A step whose next input is a command word runs the decoded command with that input taken off (the input queue is the model's, log entry 1).
For every state whose first pending input is a command word that decodes to i, step answers exactly what exec of i answers in the state with that input removed.
Cites: 00_scope.md R5, 00_scope.md R13. -/
def Obligations.StepRunsTheDecodedCommand : Prop :=
  ∀ (s : State) (w : CmdWord) (rest : List Input) (i : Instr),
    s.input = .command w :: rest → decodeCommand w = .ok i → step s = exec i { s with input := rest }

/-- A step whose next input is Set(CS,1) over CS at 0 runs the frame in the shift register (wire inputs are the model's, log entry 2).
For every state with CS at 0 whose first pending input is the wire event Set(CS,1) and whose SINK.SR decodes to a frame i, step answers exactly what exec of i answers with that input removed, CS at 1 and the event appended to the trace.
Cites: 44_sink_registers.md R172, 95_test_vectors.md X36. -/
def Obligations.StepRunsTheLatchedFrame : Prop :=
  ∀ (s : State) (rest : List Input) (i : Instr),
    s.input = .wire (.set .cs true) :: rest → s.lvl.cs = .low → decodeFrame s.sinkSr = .ok i →
    step s = exec i { s with
      input := rest, lvl := { s.lvl with cs := .high }, trace := s.trace ++ [.set .cs true] }

/-- A step whose next input is a word with opcode 0 or 8 to 255 is refused (D4, log entry 14).
For every state whose first pending input is a command word with bits 71:64 equal to 0 or at least 8, step is refused with illegal_opcode.
Cites: 30_encoding.md R92, 92_eei_decisions.md D4. -/
def Obligations.StepRefusesAnIllegalWord : Prop :=
  ∀ (s : State) (w : CmdWord) (rest : List Input), s.input = .command w :: rest →
    w.toNat / 2 ^ 64 = 0 ∨ 8 ≤ w.toNat / 2 ^ 64 → step s = .refused .illegalOpcode

/-- With no input pending a step changes nothing (an idle step is the model's choice, log entry 1).
For every state with no pending input, step answers the same state.
Cites: 70_reset_and_hazards.md R211, 10_state.md R41. -/
def Obligations.StepWithoutInputIsIdle : Prop :=
  ∀ s : State, s.input = [] → step s = .next s

/-- Every step appends to the trace, keeps inited and output directions, and takes one input, a wire input too (a choice, log entries 1, 2).
For every state and next state of a step: the old trace is an initial segment of the new one (R34), inited stays true once true (R35), a line that is an output stays one (R31), and the pending inputs are the old ones without the first. The queue of inputs of which a step takes one is the choice of the model (log entry 1), and so are the wire events among them (log entry 2).
Cites: 10_state.md R31, 10_state.md R34, 10_state.md R35, 70_reset_and_hazards.md R210, 92_eei_decisions.md D29. -/
def Obligations.StepsOnlyAppendToTheTraceAndKeepInited : Prop :=
  ∀ s t : State, step s = .next t →
    (∃ es, t.trace = s.trace ++ es) ∧ (s.inited = true → t.inited = true) ∧
    (∀ p, s.dir.get p = .out → t.dir.get p = .out) ∧ t.input = s.input.tail

/-- Every instruction other than IMAGE, SETPIXEL, RENDERHEX, RENDERDEC leaves BUF as it was.
For every instruction that is none of the four, and every state and next state of exec, BUF is unchanged; and for every instruction but INIT, DIR and inited are unchanged.
Cites: 10_state.md R20, 10_state.md R23. -/
def Obligations.OnlyImagePixelAndRendersWriteTheBuffer : Prop :=
  ∀ (i : Instr) (s t : State), exec i s = .next t →
    (mayWriteBuf i = false → t.buf = s.buf) ∧ (i ≠ .init → t.dir = s.dir ∧ t.inited = s.inited)

/-- At reset, whatever BUF and the sink hold: lines unconfigured and unspecified, inited false, trace empty; State.reset is one such state (log 3, 4).
For every launch value of BUF, SINK.SR and SINK.REG and either treatment SINK_OTHER the reset state holds exactly those, every DIR is unconfigured, every LVL unspecified, inited is false and TRACE and the inputs are empty; State.reset is the reset state of some launch values (the model's choice, log entries 3 and 4) under the default treatment, refuse (D14, log entry 7).
Cites: 10_state.md R41, 70_reset_and_hazards.md R210, 00_scope.md R8, 92_eei_decisions.md D10, 92_eei_decisions.md D11, 92_eei_decisions.md D13, 92_eei_decisions.md D14, 92_eei_decisions.md D15. -/
def Obligations.ResetStateHoldsTheStatedValues : Prop :=
  (∀ (b : Vector Byte 8) (sr : Frame) (rs : SinkRegs) (o : SinkOther),
      State.resetWith b sr rs o = {
        buf := b
        dir := ⟨.unconfigured, .unconfigured, .unconfigured⟩
        lvl := ⟨.unspecified, .unspecified, .unspecified⟩
        inited := false, trace := [], sinkSr := sr, sinkReg := rs, sinkOther := o, input := [] }) ∧
    ∃ b sr rs, State.reset = State.resetWith b sr rs .refuse

/-- The four invariants hold in the reset state, whatever BUF and the sink hold there.
For every launch value and either treatment SINK_OTHER, the reset state meets TraceOfWholeFrames, LinesAtRest, ControlsAsInit, SinkFollowsTrace of its own launch values, and HostOnly.
Cites: 10_state.md R41, 41_register_protocol.md R123, 41_register_protocol.md R126, 44_sink_registers.md R180. -/
def Obligations.InvariantsHoldAtReset : Prop :=
  ∀ (b : Vector Byte 8) (sr : Frame) (rs : SinkRegs) (o : SinkOther),
    (State.resetWith b sr rs o).TraceOfWholeFrames ∧ (State.resetWith b sr rs o).LinesAtRest ∧
    (State.resetWith b sr rs o).ControlsAsInit ∧ (State.resetWith b sr rs o).SinkFollowsTrace sr rs ∧
    (State.resetWith b sr rs o).HostOnly

/-- Every step of a command-only host keeps the trace INIT's events followed by whole groups of eight digit frames.
For every state with only commands pending whose trace is empty before INIT, and after it is the three configurations, INIT's thirteen frames and then whole groups of eight digit frames: every next state of a step is again such a state. So no partial frame and no frame to any other address is ever on the wire.
Cites: 20_memory.md R61, 30_encoding.md R84, 41_register_protocol.md R121, 44_sink_registers.md R180, 92_eei_decisions.md D12. -/
def Obligations.StepKeepsTheTraceOfWholeFrames : Prop :=
  ∀ s t : State, s.HostOnly → s.TraceOfWholeFrames → step s = .next t →
    t.HostOnly ∧ t.TraceOfWholeFrames

/-- Every step of a command-only host keeps the lines untouched before INIT and configured, CS and CLK high, after it.
For every state with only commands pending whose lines are unconfigured and unspecified before INIT, and after it are outputs with CS and CLK at 1 and DIN at 0 or 1: every next state of a step is again such a state.
Cites: 10_state.md R31, 10_state.md R32, 41_register_protocol.md R126, 92_eei_decisions.md D11. -/
def Obligations.StepKeepsTheLinesAtRest : Prop :=
  ∀ s t : State, s.HostOnly → s.LinesAtRest → step s = .next t → t.LinesAtRest

/-- Every step of a command-only host keeps the five control registers at INIT's values once initialised.
For every state with only commands pending in which, if inited, decode-mode is 0, intensity 1, scan-limit 7, shutdown 1 and display-test 0: every next state of a step is again such a state.
Cites: 41_register_protocol.md R123, 70_reset_and_hazards.md R219, 60_exceptions.md R202, 92_eei_decisions.md D14. -/
def Obligations.StepKeepsTheControlRegistersOfInit : Prop :=
  ∀ s t : State, s.HostOnly → s.ControlsAsInit → step s = .next t → t.ControlsAsInit

/-- Every step of a command-only host keeps lines and sink equal to what a receiver makes of the trace (D14; TIMING_OK, log entry 9).
For every launch value of the sink and every state with only commands pending in which LVL, SINK.SR and SINK.REG are what a receiver launched with those values makes of TRACE event by event: the same holds in every next state of a step.
Cites: 00_scope.md R6, 44_sink_registers.md R170, 44_sink_registers.md R171, 44_sink_registers.md R172, 92_eei_decisions.md D14, 92_eei_decisions.md D25. -/
def Obligations.StepKeepsTheSinkAFunctionOfTheTrace : Prop :=
  ∀ (sr : Frame) (rs : SinkRegs) (s t : State), s.HostOnly → s.SinkFollowsTrace sr rs → step s = .next t →
    t.SinkFollowsTrace sr rs

/-- What the chip holds never changes what a command does to BUF, the lines, inited or the trace.
For every command, every state in which it completes and every replacement of SINK.SR and SINK.REG, the command completes there too, and the two next states agree on everything but SINK.SR and SINK.REG.
Cites: 00_scope.md R2, 20_memory.md R63, 70_reset_and_hazards.md R223. -/
def Obligations.ChipContentsNeverReachTheBlock : Prop :=
  ∀ (i : Instr) (s t : State) (sr : Frame) (rs : SinkRegs), i.isCommand = true → exec i s = .next t →
    ∃ sr' rs', exec i (s.withSink sr rs) = .next (t.withSink sr' rs')

/-- While the host keeps its contract every step completes, takes one input, and the contract still holds (D13, log entry 13).
For every state whose pending inputs keep the contract (legal command words, INIT exactly once and before any transmitting command, row and col at most 7): step answers a next state with one input fewer (none if there was none), and the inputs left keep the contract from there.
Cites: 00_scope.md R13, 00_scope.md R14, 70_reset_and_hazards.md R212, 70_reset_and_hazards.md R220, 92_eei_decisions.md D13, 92_eei_decisions.md D30. -/
def Obligations.HostThatKeepsTheContractIsNeverRefused : Prop :=
  ∀ s : State, contract s.inited s.input = true →
    ∃ t, step s = .next t ∧ contract t.inited t.input = true ∧ t.input = s.input.tail

/-- A run of any number of steps from any state whose inputs keep the contract reaches a next state.
For every number of steps and every state whose pending inputs keep the contract, the run of that many steps answers a next state.
Cites: 00_scope.md R13, 60_exceptions.md R194, 92_eei_decisions.md D30. -/
def Obligations.RunsOfAContractKeepingHostNeverStop : Prop :=
  ∀ (n : Nat) (s : State), contract s.inited s.input = true →
    ∃ t : State, Sys2Proof.core.run n s = .next t

/-- Under the treatment effect, WRITE to an unlisted address byte is a whole frame after which only the chip registers are open (log entry 7).
For every address byte a that selects no register, every value v and every state whose treatment SINK_OTHER is effect, WRITE(a, v) answers the next state in which the trace gained the 50 events of the frame, the lines rest at CS 1, CLK 1, DIN v[0], SINK.SR is the frame, SINK.REG is what the uninterpreted Config.sinkOtherEffect makes of the frame and the old registers, and everything else is as before.
Cites: 00_scope.md R8, 41_register_protocol.md R120, 44_sink_registers.md R172, 44_sink_registers.md R179, 92_eei_decisions.md D14. -/
def Obligations.WriteToUnlistedAddressTakesItsEffect : Prop :=
  ∀ (a v : Byte) (s : State), SinkReg.ofAddress a = none → s.sinkOther = .effect →
    write a v s = .next { s with
      lvl := ⟨.high, .ofBit (v.getLsbD 0), .high⟩
      trace := s.trace ++ (.set .cs false :: (sendEvents a ++ sendEvents v) ++ [.set .cs true])
      sinkSr := a ++ v
      sinkReg := Config.sinkOtherEffect (a ++ v) s.sinkReg }

/-- Under the treatment effect, a rising edge of CS over an unlisted frame keeps SINK.SR and leaves only the chip registers open (log entry 7).
For every state with CS at 0 whose SINK.SR decodes to no frame and whose treatment SINK_OTHER is effect, Set(CS,1) answers the next state with CS at 1, the event appended to the trace, SINK.REG what the uninterpreted Config.sinkOtherEffect makes of SINK.SR and the old registers, and everything else, SINK.SR among it, as before.
Cites: 00_scope.md R8, 44_sink_registers.md R172, 44_sink_registers.md R179, 92_eei_decisions.md D14. -/
def Obligations.LatchOfUnlistedFrameTakesItsEffect : Prop :=
  ∀ (s : State) (e : DecodeError), s.lvl.cs = .low → decodeFrame s.sinkSr = .error e → s.sinkOther = .effect →
    pinSet .cs true s = .next { s with
      lvl := { s.lvl with cs := .high }
      trace := s.trace ++ [.set .cs true]
      sinkReg := Config.sinkOtherEffect s.sinkSr s.sinkReg }

/-- A step whose next input is a wire event is that pin event, whatever the frame in the shift register (wire inputs are a choice, log entry 2).
For every state whose first pending input is a wire event, step answers exactly what the pin event answers, with the reaction of the sink to it, in the state with that input removed: the same whether the event latches a listed frame, latches an unlisted one under either treatment SINK_OTHER, shifts, or does neither.
Cites: 44_sink_registers.md R170, 44_sink_registers.md R171, 44_sink_registers.md R172, 44_sink_registers.md R179, 92_eei_decisions.md D14. -/
def Obligations.StepOfAWireEventIsThatPinEvent : Prop :=
  ∀ (s : State) (e : PinEvent) (rest : List Input), s.input = .wire e :: rest →
    step s = pinEvent e { s with input := rest }

/-- No step, of a command or of a wire event, changes the treatment SINK_OTHER: it is a parameter (held in State by choice, log entry 7).
For every state and every next state of a step, the treatment SINK_OTHER is as before.
Cites: 00_scope.md R8, 92_eei_decisions.md D14. -/
def Obligations.NoStepChangesTheSinkTreatment : Prop :=
  ∀ s t : State, step s = .next t → t.sinkOther = s.sinkOther

/-- A step of a command-only host answers the same under either treatment SINK_OTHER (the treatment is held in State by choice, log entry 7).
For every state in which only commands are pending and every treatment x: if step answers a next state there, then with the treatment x put in its place step answers the same next state with x in it; and if step is refused for a reason there, it is refused for the same reason with x.
Cites: 00_scope.md R8, 44_sink_registers.md R179, 44_sink_registers.md R180, 92_eei_decisions.md D14. -/
def Obligations.SinkTreatmentNeverReachesACommand : Prop :=
  ∀ (s : State) (x : SinkOther), s.HostOnly →
    (∀ t, step s = .next t → step { s with sinkOther := x } = .next { t with sinkOther := x }) ∧
    (∀ r, step s = .refused r → step { s with sinkOther := x } = .refused r)
end

