-- ==== Sys2Proof/Laws/State.lean ====
section
/-! SUPPORT. One lemma per field per update of the state, each true by rfl. -/

namespace Sys2Proof.Machine

@[simp] theorem drive_buf (p : Pin) (l : Bool) (s : State) :
    (drive p l s).buf = s.buf := rfl
@[simp] theorem drive_dir (p : Pin) (l : Bool) (s : State) :
    (drive p l s).dir = s.dir := rfl
@[simp] theorem drive_lvl (p : Pin) (l : Bool) (s : State) :
    (drive p l s).lvl = s.lvl.set p (.ofBit l) := rfl
@[simp] theorem drive_inited (p : Pin) (l : Bool) (s : State) :
    (drive p l s).inited = s.inited := rfl
@[simp] theorem drive_trace (p : Pin) (l : Bool) (s : State) :
    (drive p l s).trace = s.trace ++ [.set p l] := rfl
@[simp] theorem drive_sinkSr (p : Pin) (l : Bool) (s : State) :
    (drive p l s).sinkSr = s.sinkSr := rfl
@[simp] theorem drive_sinkReg (p : Pin) (l : Bool) (s : State) :
    (drive p l s).sinkReg = s.sinkReg := rfl
@[simp] theorem drive_sinkOther (p : Pin) (l : Bool) (s : State) :
    (drive p l s).sinkOther = s.sinkOther := rfl
@[simp] theorem drive_input (p : Pin) (l : Bool) (s : State) :
    (drive p l s).input = s.input := rfl

@[simp] theorem pinCfg_buf (p : Pin) (s : State) :
    (pinCfg p s).buf = s.buf := rfl
@[simp] theorem pinCfg_dir (p : Pin) (s : State) :
    (pinCfg p s).dir = s.dir.set p .out := rfl
@[simp] theorem pinCfg_lvl (p : Pin) (s : State) :
    (pinCfg p s).lvl = s.lvl := rfl
@[simp] theorem pinCfg_inited (p : Pin) (s : State) :
    (pinCfg p s).inited = s.inited := rfl
@[simp] theorem pinCfg_trace (p : Pin) (s : State) :
    (pinCfg p s).trace = s.trace ++ [.cfgOut p] := rfl
@[simp] theorem pinCfg_sinkSr (p : Pin) (s : State) :
    (pinCfg p s).sinkSr = s.sinkSr := rfl
@[simp] theorem pinCfg_sinkReg (p : Pin) (s : State) :
    (pinCfg p s).sinkReg = s.sinkReg := rfl
@[simp] theorem pinCfg_sinkOther (p : Pin) (s : State) :
    (pinCfg p s).sinkOther = s.sinkOther := rfl
@[simp] theorem pinCfg_input (p : Pin) (s : State) :
    (pinCfg p s).input = s.input := rfl

@[simp] theorem sinkShift_buf (s : State) :
    (sinkShift s).buf = s.buf := rfl
@[simp] theorem sinkShift_dir (s : State) :
    (sinkShift s).dir = s.dir := rfl
@[simp] theorem sinkShift_lvl (s : State) :
    (sinkShift s).lvl = s.lvl := rfl
@[simp] theorem sinkShift_inited (s : State) :
    (sinkShift s).inited = s.inited := rfl
@[simp] theorem sinkShift_trace (s : State) :
    (sinkShift s).trace = s.trace := rfl
@[simp] theorem sinkShift_sinkSr (s : State) :
    (sinkShift s).sinkSr = (s.sinkSr <<< 1) ||| (BitVec.ofBool (lineLevel .din s)).setWidth 16 := rfl
@[simp] theorem sinkShift_sinkReg (s : State) :
    (sinkShift s).sinkReg = s.sinkReg := rfl
@[simp] theorem sinkShift_sinkOther (s : State) :
    (sinkShift s).sinkOther = s.sinkOther := rfl
@[simp] theorem sinkShift_input (s : State) :
    (sinkShift s).input = s.input := rfl

@[simp] theorem sinkWrite_buf (r : SinkReg) (v : Byte) (s : State) :
    (sinkWrite r v s).buf = s.buf := rfl
@[simp] theorem sinkWrite_dir (r : SinkReg) (v : Byte) (s : State) :
    (sinkWrite r v s).dir = s.dir := rfl
@[simp] theorem sinkWrite_lvl (r : SinkReg) (v : Byte) (s : State) :
    (sinkWrite r v s).lvl = s.lvl := rfl
@[simp] theorem sinkWrite_inited (r : SinkReg) (v : Byte) (s : State) :
    (sinkWrite r v s).inited = s.inited := rfl
@[simp] theorem sinkWrite_trace (r : SinkReg) (v : Byte) (s : State) :
    (sinkWrite r v s).trace = s.trace := rfl
@[simp] theorem sinkWrite_sinkSr (r : SinkReg) (v : Byte) (s : State) :
    (sinkWrite r v s).sinkSr = s.sinkSr := rfl
@[simp] theorem sinkWrite_sinkReg (r : SinkReg) (v : Byte) (s : State) :
    (sinkWrite r v s).sinkReg = s.sinkReg.set r v := rfl
@[simp] theorem sinkWrite_sinkOther (r : SinkReg) (v : Byte) (s : State) :
    (sinkWrite r v s).sinkOther = s.sinkOther := rfl
@[simp] theorem sinkWrite_input (r : SinkReg) (v : Byte) (s : State) :
    (sinkWrite r v s).input = s.input := rfl

@[simp] theorem bufWrite_buf (i : Fin 8) (v : Byte) (s : State) :
    (bufWrite i v s).buf = s.buf.set i v := rfl
@[simp] theorem bufWrite_dir (i : Fin 8) (v : Byte) (s : State) :
    (bufWrite i v s).dir = s.dir := rfl
@[simp] theorem bufWrite_lvl (i : Fin 8) (v : Byte) (s : State) :
    (bufWrite i v s).lvl = s.lvl := rfl
@[simp] theorem bufWrite_inited (i : Fin 8) (v : Byte) (s : State) :
    (bufWrite i v s).inited = s.inited := rfl
@[simp] theorem bufWrite_trace (i : Fin 8) (v : Byte) (s : State) :
    (bufWrite i v s).trace = s.trace := rfl
@[simp] theorem bufWrite_sinkSr (i : Fin 8) (v : Byte) (s : State) :
    (bufWrite i v s).sinkSr = s.sinkSr := rfl
@[simp] theorem bufWrite_sinkReg (i : Fin 8) (v : Byte) (s : State) :
    (bufWrite i v s).sinkReg = s.sinkReg := rfl
@[simp] theorem bufWrite_sinkOther (i : Fin 8) (v : Byte) (s : State) :
    (bufWrite i v s).sinkOther = s.sinkOther := rfl
@[simp] theorem bufWrite_input (i : Fin 8) (v : Byte) (s : State) :
    (bufWrite i v s).input = s.input := rfl

@[simp] theorem bufReplace_buf (rows : Vector Byte 8) (s : State) :
    (bufReplace rows s).buf = rows := rfl
@[simp] theorem bufReplace_dir (rows : Vector Byte 8) (s : State) :
    (bufReplace rows s).dir = s.dir := rfl
@[simp] theorem bufReplace_lvl (rows : Vector Byte 8) (s : State) :
    (bufReplace rows s).lvl = s.lvl := rfl
@[simp] theorem bufReplace_inited (rows : Vector Byte 8) (s : State) :
    (bufReplace rows s).inited = s.inited := rfl
@[simp] theorem bufReplace_trace (rows : Vector Byte 8) (s : State) :
    (bufReplace rows s).trace = s.trace := rfl
@[simp] theorem bufReplace_sinkSr (rows : Vector Byte 8) (s : State) :
    (bufReplace rows s).sinkSr = s.sinkSr := rfl
@[simp] theorem bufReplace_sinkReg (rows : Vector Byte 8) (s : State) :
    (bufReplace rows s).sinkReg = s.sinkReg := rfl
@[simp] theorem bufReplace_sinkOther (rows : Vector Byte 8) (s : State) :
    (bufReplace rows s).sinkOther = s.sinkOther := rfl
@[simp] theorem bufReplace_input (rows : Vector Byte 8) (s : State) :
    (bufReplace rows s).input = s.input := rfl

@[simp] theorem setInitialised_buf (s : State) :
    (setInitialised s).buf = s.buf := rfl
@[simp] theorem setInitialised_dir (s : State) :
    (setInitialised s).dir = s.dir := rfl
@[simp] theorem setInitialised_lvl (s : State) :
    (setInitialised s).lvl = s.lvl := rfl
@[simp] theorem setInitialised_inited (s : State) :
    (setInitialised s).inited = true := rfl
@[simp] theorem setInitialised_trace (s : State) :
    (setInitialised s).trace = s.trace := rfl
@[simp] theorem setInitialised_sinkSr (s : State) :
    (setInitialised s).sinkSr = s.sinkSr := rfl
@[simp] theorem setInitialised_sinkReg (s : State) :
    (setInitialised s).sinkReg = s.sinkReg := rfl
@[simp] theorem setInitialised_sinkOther (s : State) :
    (setInitialised s).sinkOther = s.sinkOther := rfl
@[simp] theorem setInitialised_input (s : State) :
    (setInitialised s).input = s.input := rfl

@[simp] theorem State.showing_buf (p : Vector Byte 8) (s : State) :
    (s.showing p).buf = s.buf := rfl
@[simp] theorem State.showing_dir (p : Vector Byte 8) (s : State) :
    (s.showing p).dir = s.dir := rfl
@[simp] theorem State.showing_lvl (p : Vector Byte 8) (s : State) :
    (s.showing p).lvl = idleLines (p[7].getLsbD 0) := rfl
@[simp] theorem State.showing_inited (p : Vector Byte 8) (s : State) :
    (s.showing p).inited = s.inited := rfl
@[simp] theorem State.showing_trace (p : Vector Byte 8) (s : State) :
    (s.showing p).trace = s.trace ++ framesEvents (digitFrames p) := rfl
@[simp] theorem State.showing_sinkSr (p : Vector Byte 8) (s : State) :
    (s.showing p).sinkSr = 0x08#8 ++ p[7] := rfl
@[simp] theorem State.showing_sinkReg (p : Vector Byte 8) (s : State) :
    (s.showing p).sinkReg = s.sinkReg.withDigits p := rfl
@[simp] theorem State.showing_sinkOther (p : Vector Byte 8) (s : State) :
    (s.showing p).sinkOther = s.sinkOther := rfl
@[simp] theorem State.showing_input (p : Vector Byte 8) (s : State) :
    (s.showing p).input = s.input := rfl

@[simp] theorem State.withSink_buf (s : State) (sr : Frame) (regs : SinkRegs) :
    (s.withSink sr regs).buf = s.buf := rfl
@[simp] theorem State.withSink_dir (s : State) (sr : Frame) (regs : SinkRegs) :
    (s.withSink sr regs).dir = s.dir := rfl
@[simp] theorem State.withSink_lvl (s : State) (sr : Frame) (regs : SinkRegs) :
    (s.withSink sr regs).lvl = s.lvl := rfl
@[simp] theorem State.withSink_inited (s : State) (sr : Frame) (regs : SinkRegs) :
    (s.withSink sr regs).inited = s.inited := rfl
@[simp] theorem State.withSink_trace (s : State) (sr : Frame) (regs : SinkRegs) :
    (s.withSink sr regs).trace = s.trace := rfl
@[simp] theorem State.withSink_sinkSr (s : State) (sr : Frame) (regs : SinkRegs) :
    (s.withSink sr regs).sinkSr = sr := rfl
@[simp] theorem State.withSink_sinkReg (s : State) (sr : Frame) (regs : SinkRegs) :
    (s.withSink sr regs).sinkReg = regs := rfl
@[simp] theorem State.withSink_sinkOther (s : State) (sr : Frame) (regs : SinkRegs) :
    (s.withSink sr regs).sinkOther = s.sinkOther := rfl
@[simp] theorem State.withSink_input (s : State) (sr : Frame) (regs : SinkRegs) :
    (s.withSink sr regs).input = s.input := rfl

end Sys2Proof.Machine
end

