-- ==== Sys2Proof/Laws/Regs.lean ====
section
/-! SUPPORT. Read after write of the lines, the chip's registers and the display buffer, and the address map. -/

namespace Sys2Proof.Machine

@[simp] theorem Pins.get_set_same {α : Type} (ps : Pins α) (p : Pin) (x : α) : (ps.set p x).get p = x := by
  cases p <;> rfl

theorem Pins.get_set_other {α : Type} (ps : Pins α) {p q : Pin} (x : α) (h : q ≠ p) :
    (ps.set p x).get q = ps.get q := by
  cases p <;> cases q <;> first | rfl | exact absurd rfl h

@[simp] theorem SinkRegs.get_set_same (rs : SinkRegs) (r : SinkReg) (v : Byte) : (rs.set r v).get r = v := by
  cases r <;> rfl

theorem SinkRegs.get_set_other (rs : SinkRegs) {r q : SinkReg} (v : Byte) (h : q ≠ r) :
    (rs.set r v).get q = rs.get q := by
  cases r <;> cases q <;> first | rfl | exact absurd rfl h

/-- Two register files that read the same are the same. -/
theorem SinkRegs.ext_get {a b : SinkRegs} (h : ∀ r, a.get r = b.get r) : a = b := by
  cases a; cases b
  simp only [SinkRegs.mk.injEq]
  exact ⟨h .digit1, h .digit2, h .digit3, h .digit4, h .digit5, h .digit6, h .digit7, h .digit8,
    h .decodeMode, h .intensity, h .scanLimit, h .shutdown, h .dispTest⟩

@[simp] theorem SinkReg.ofAddress_address (r : SinkReg) : SinkReg.ofAddress r.address = some r := by
  cases r <;> rfl

/-- An address byte that selects a register is that register's address. -/
theorem SinkReg.address_of_ofAddress {a : Byte} {r : SinkReg} (h : SinkReg.ofAddress a = some r) : a = r.address := by
  unfold SinkReg.ofAddress at h
  split at h <;> first | (cases h; rfl) | cases h

theorem bufRead_bufWrite_same (i : Fin 8) (v : Byte) (s : State) : bufRead i (bufWrite i v s) = v := by
  simp [bufRead]

theorem bufRead_bufWrite_other {i j : Fin 8} (v : Byte) (s : State) (h : j ≠ i) :
    bufRead j (bufWrite i v s) = bufRead j s := by
  simp only [bufRead, bufWrite_buf, Fin.getElem_fin]
  exact Vector.getElem_set_ne _ _ (fun e => h (Fin.ext e.symm))

@[simp] theorem frameAddress_append (a v : Byte) : frameAddress (a ++ v) = a := by
  unfold frameAddress byteOf
  exact BitVec.extractLsb'_append_eq_left

@[simp] theorem frameValue_append (a v : Byte) : frameValue (a ++ v) = v := by
  unfold frameValue byteOf
  exact BitVec.extractLsb'_append_eq_right

/-- A frame is its address byte above its value byte. -/
theorem frame_eq_append (f : Frame) : f = frameAddress f ++ frameValue f := by
  apply BitVec.eq_of_getLsbD_eq
  intro i hi
  simp only [frameAddress, frameValue, byteOf, BitVec.getLsbD_append, BitVec.getLsbD_extractLsb']
  interval_cases i <;> simp

end Sys2Proof.Machine
end

