-- ==== Sys2Proof/Laws/Wire.lean ====
section
/-! SUPPORT. What the wire's shared operations answer, once each: `sendBit`, `send`, the latch, `write`, and a sequence of
writes. Every other proof cites these. -/

namespace Sys2Proof.Machine

@[simp] theorem andThen_next (s : State) (k : State → Result) : andThen (.next s) k = k s := rfl

@[simp] theorem andThen_refused (r : Refusal) (k : State → Result) : andThen (.refused r) k = .refused r := rfl

@[simp] theorem forEach_nil {α : Type} (body : α → State → Result) (s : State) : forEach [] body s = .next s := rfl

@[simp] theorem forEach_cons {α : Type} (x : α) (xs : List α) (body : α → State → Result) (s : State) :
    forEach (x :: xs) body s = andThen (body x s) (forEach xs body) := rfl

/-- One bit on the wire: the lines, the trace and the shift, whatever the lines were. -/
theorem sendBit_eq (b : Bool) (s : State) :
    sendBit b s = .next { s with
      lvl := ⟨.high, .ofBit b, s.lvl.cs⟩
      trace := s.trace ++ bitEvents b
      sinkSr := s.sinkSr.shiftConcat b } := by
  have shift : ∀ (x : Frame) (b : Bool), (x <<< 1) ||| (BitVec.ofBool b).setWidth 16 = x.shiftConcat b := by
    intro x b
    apply BitVec.eq_of_getLsbD_eq
    intro i hi
    cases b <;> simp [BitVec.getLsbD_shiftConcat] <;> grind
  cases b <;>
    simp [sendBit, pinSet, isRisingEdge, lineLevel, drive, Pins.set, Pins.get, PinLevel.ofBit, sinkShift, shift, bitEvents,
      -BitVec.ofBool_false, -BitVec.ofBool_true]

/-- Eight shifts put the byte below the old low byte. -/
theorem shift_byte (x : Frame) (b : Byte) :
    ((((((((x.shiftConcat (b.getLsbD 7)).shiftConcat (b.getLsbD 6)).shiftConcat (b.getLsbD 5)).shiftConcat
      (b.getLsbD 4)).shiftConcat (b.getLsbD 3)).shiftConcat (b.getLsbD 2)).shiftConcat (b.getLsbD 1)).shiftConcat
      (b.getLsbD 0)) = frameValue x ++ b := by
  apply BitVec.eq_of_getLsbD_eq
  intro i hi
  simp only [frameValue, byteOf, BitVec.getLsbD_append, BitVec.getLsbD_extractLsb', BitVec.getLsbD_shiftConcat]
  interval_cases i <;> simp

/-- `SEND`: the lines, the 24 events, and the byte in the low half of the shift register. -/
theorem send_eq (b : Byte) (s : State) :
    send b s = .next { s with
      lvl := ⟨.high, .ofBit (b.getLsbD 0), s.lvl.cs⟩
      trace := s.trace ++ sendEvents b
      sinkSr := frameValue s.sinkSr ++ b } := by
  simp only [send, forEach_cons, forEach_nil, sendBit_eq, andThen_next, Nat.sub_zero, Nat.reduceSub, Nat.sub_self,
    shift_byte, sendEvents, List.flatMap_cons, List.flatMap_nil, List.append_nil, List.append_assoc]

/-- Every frame's meaning stores its byte. -/
theorem runFrame_eq (r : SinkReg) (v : Byte) (s : State) : runFrame r v s = .next (sinkWrite r v s) := by
  cases r <;> rfl

/-- The latch of a listed frame. -/
theorem sinkLatch_eq {s : State} {r : SinkReg} (h : SinkReg.ofAddress (frameAddress s.sinkSr) = some r) :
    sinkLatch s = .next (sinkWrite r (frameValue s.sinkSr) s) := by
  simp only [sinkLatch, h, runFrame_eq]

/-- The latch of an unlisted frame. -/
theorem sinkLatch_unlisted {s : State} (h : SinkReg.ofAddress (frameAddress s.sinkSr) = none) :
    sinkLatch s = latchUnlisted s := by
  simp only [sinkLatch, h]

theorem latchUnlisted_refuse {s : State} (h : s.sinkOther = .refuse) :
    latchUnlisted s = .refused .unlistedSinkAddress := by
  simp only [latchUnlisted, h, refuse]

theorem latchUnlisted_effect {s : State} (h : s.sinkOther = .effect) :
    latchUnlisted s = .next { s with sinkReg := Config.sinkOtherEffect s.sinkSr s.sinkReg } := by
  simp only [latchUnlisted, h]

/-- A latch that answers a next state changes nothing but the chip's registers. -/
theorem sinkLatch_cases {s t : State} (h : sinkLatch s = .next t) : ∃ regs, t = { s with sinkReg := regs } := by
  cases ha : SinkReg.ofAddress (frameAddress s.sinkSr) with
  | some r => rw [sinkLatch_eq ha] at h; cases h; exact ⟨_, rfl⟩
  | none =>
    rw [sinkLatch_unlisted ha, latchUnlisted] at h
    split at h <;> cases h
    exact ⟨_, rfl⟩

/-- The events of a frame, byte by byte. -/
theorem frameEvents_append (a v : Byte) :
    frameEvents (a ++ v) = .set .cs false :: (sendEvents a ++ sendEvents v) ++ [.set .cs true] := by
  simp only [frameEvents, sendEvents, List.flatMap_cons, List.flatMap_nil, BitVec.getLsbD_append, Nat.reduceLT,
    if_true, if_false, Nat.reduceSub, List.append_assoc, List.cons_append, List.nil_append]

/-- `WRITE` up to its latch. -/
theorem write_latches (a v : Byte) (s : State) :
    write a v s = sinkLatch { s with
      lvl := idleLines (v.getLsbD 0)
      trace := s.trace ++ frameEvents (a ++ v)
      sinkSr := a ++ v } := by
  simp [write, send_eq, pinSet, isRisingEdge, lineLevel, drive, Pins.set, Pins.get, PinLevel.ofBit, idleLines,
    frameEvents_append]

/-- `WRITE` to a listed address: one whole frame, and its byte in the register. -/
theorem write_eq {a : Byte} {r : SinkReg} (h : SinkReg.ofAddress a = some r) (v : Byte) (s : State) :
    write a v s = .next { s with
      lvl := idleLines (v.getLsbD 0)
      trace := s.trace ++ frameEvents (a ++ v)
      sinkSr := a ++ v
      sinkReg := s.sinkReg.set r v } := by
  rw [write_latches, sinkLatch_eq (r := r) (by simpa using h)]
  simp [sinkWrite]

/-- The eight digit frames of a row of patterns, from any state. -/
theorem digit_writes_eq (p : Vector Byte 8) (s : State) :
    forEach [((0x01 : Byte), p[0]), (0x02, p[1]), (0x03, p[2]), (0x04, p[3]), (0x05, p[4]), (0x06, p[5]), (0x07, p[6]),
      (0x08, p[7])] (fun f => write f.1 f.2) s = .next (s.showing p) := by
  simp only [forEach_cons, forEach_nil, andThen_next,
    write_eq (show SinkReg.ofAddress 0x01 = some .digit1 from rfl),
    write_eq (show SinkReg.ofAddress 0x02 = some .digit2 from rfl),
    write_eq (show SinkReg.ofAddress 0x03 = some .digit3 from rfl),
    write_eq (show SinkReg.ofAddress 0x04 = some .digit4 from rfl),
    write_eq (show SinkReg.ofAddress 0x05 = some .digit5 from rfl),
    write_eq (show SinkReg.ofAddress 0x06 = some .digit6 from rfl),
    write_eq (show SinkReg.ofAddress 0x07 = some .digit7 from rfl),
    write_eq (show SinkReg.ofAddress 0x08 = some .digit8 from rfl)]
  simp [State.showing, SinkRegs.set, SinkRegs.withDigits, framesEvents, digitFrames]

/-- The body of CLEARALL shows eight blanks. -/
theorem clearDigits_eq (s : State) : clearDigits s = .next (s.showing blankRow) := by
  rw [← digit_writes_eq]
  rfl

/-- The body of FLUSH shows the buffer. -/
theorem flushBuf_eq (s : State) : flushBuf s = .next (s.showing s.buf) := by
  simp only [flushBuf, forEach_cons, forEach_nil, andThen_next, bufRead, Fin.getElem_fin,
    write_eq (show SinkReg.ofAddress (BitVec.ofNat 8 ((0 : Fin 8).val + 1)) = some .digit1 from rfl),
    write_eq (show SinkReg.ofAddress (BitVec.ofNat 8 ((1 : Fin 8).val + 1)) = some .digit2 from rfl),
    write_eq (show SinkReg.ofAddress (BitVec.ofNat 8 ((2 : Fin 8).val + 1)) = some .digit3 from rfl),
    write_eq (show SinkReg.ofAddress (BitVec.ofNat 8 ((3 : Fin 8).val + 1)) = some .digit4 from rfl),
    write_eq (show SinkReg.ofAddress (BitVec.ofNat 8 ((4 : Fin 8).val + 1)) = some .digit5 from rfl),
    write_eq (show SinkReg.ofAddress (BitVec.ofNat 8 ((5 : Fin 8).val + 1)) = some .digit6 from rfl),
    write_eq (show SinkReg.ofAddress (BitVec.ofNat 8 ((6 : Fin 8).val + 1)) = some .digit7 from rfl),
    write_eq (show SinkReg.ofAddress (BitVec.ofNat 8 ((7 : Fin 8).val + 1)) = some .digit8 from rfl)]
  simp [State.showing, SinkRegs.set, SinkRegs.withDigits, framesEvents, digitFrames]

/-- A render puts its patterns in the buffer and on the display. -/
theorem renderPacked_eq (value : RenderValue) (l sl : Bool) (s : State) :
    renderPacked value l sl s =
      .next (State.showing (addDots (hexPatterns value) l sl) (bufReplace (addDots (hexPatterns value) l sl) s)) := by
  simp only [renderPacked, flushBuf_eq, bufReplace_buf]

end Sys2Proof.Machine
end

