-- ==== Sys2Proof/Laws/Decode.lean ====
section
/-! SUPPORT. What the frame decoder answers, against the address map. -/

namespace Sys2Proof.Machine

/-- A frame that decodes addresses a register, and its meaning is that register's frame. -/
theorem decodeFrame_ok {f : Frame} {i : Instr} (h : decodeFrame f = .ok i) :
    ∃ r, SinkReg.ofAddress (frameAddress f) = some r ∧ ∀ s, exec i s = runFrame r (frameValue f) s := by
  unfold decodeFrame at h
  split at h <;> cases h <;> rename_i ha <;> exact ⟨_, congrArg SinkReg.ofAddress ha, fun s => rfl⟩

/-- A frame that does not decode addresses no register. -/
theorem decodeFrame_error {f : Frame} {e : DecodeError} (h : decodeFrame f = .error e) :
    SinkReg.ofAddress (frameAddress f) = none := by
  unfold decodeFrame at h
  generalize frameAddress f = a at h ⊢
  split at h <;> first | (cases h; done) | skip
  unfold SinkReg.ofAddress
  split <;> first | contradiction | rfl

end Sys2Proof.Machine
end

