-- ==== Sys2Proof/Laws/PerInstr.lean ====
section
/-! SUPPORT. Statements made per instruction: the encoding of every instruction, at every operand, lies in its own row of
spec/opcode_table.json. -/

namespace Sys2Proof.Laws.EncodeFitsRow

/-- The row of the opcode table: its width and the bits its mask keeps (0xFF in the top byte of the word). -/
def row : Instr → Nat × Byte
  | .init => (72, 0x01#8)
  | .clearAll => (72, 0x02#8)
  | .flush => (72, 0x03#8)
  | .image _ => (72, 0x04#8)
  | .setPixel _ _ _ => (72, 0x05#8)
  | .renderHex _ _ _ => (72, 0x06#8)
  | .renderDec _ _ _ => (72, 0x07#8)
  | .regDigit1 _ => (16, 0x01#8)
  | .regDigit2 _ => (16, 0x02#8)
  | .regDigit3 _ => (16, 0x03#8)
  | .regDigit4 _ => (16, 0x04#8)
  | .regDigit5 _ => (16, 0x05#8)
  | .regDigit6 _ => (16, 0x06#8)
  | .regDigit7 _ => (16, 0x07#8)
  | .regDigit8 _ => (16, 0x08#8)
  | .regDecode _ => (16, 0x09#8)
  | .regIntensity _ => (16, 0x0A#8)
  | .regScanLimit _ => (16, 0x0B#8)
  | .regShutdown _ => (16, 0x0C#8)
  | .regDispTest _ => (16, 0x0F#8)

/-- The row an encoding lies in. -/
def rowOf : Encoded → Nat × Byte
  | .command w => (72, opcodeOf w)
  | .frame f => (16, frameAddress f)

/-- The instruction's encoding lies in the instruction's row. -/
def Statement (i : Instr) : Prop := rowOf (encode i) = row i

theorem opcodeOf_append (op : Byte) (x : BitVec 64) : opcodeOf (op ++ x) = op := by
  unfold opcodeOf byteOf
  exact BitVec.extractLsb'_append_eq_left

theorem opcodeOf_encodeI (op : Byte) (r : Vector Byte 8) : opcodeOf (encodeI op r) = op := by
  apply BitVec.eq_of_getLsbD_eq
  intro i hi
  simp only [opcodeOf, byteOf, encodeI, BitVec.getLsbD_extractLsb', BitVec.getLsbD_append]
  interval_cases i <;> simp

theorem opcodeOf_encodeP (op row col mode : Byte) : opcodeOf (encodeP op row col mode) = op := by
  apply BitVec.eq_of_getLsbD_eq
  intro i hi
  simp only [opcodeOf, byteOf, encodeP, BitVec.getLsbD_extractLsb', BitVec.getLsbD_append]
  interval_cases i <;> simp

theorem opcodeOf_encodeR (op : Byte) (v : RenderValue) (l sl : Bool) : opcodeOf (encodeR op v l sl) = op := by
  apply BitVec.eq_of_getLsbD_eq
  intro i hi
  simp only [opcodeOf, byteOf, encodeR, BitVec.getLsbD_extractLsb', BitVec.getLsbD_append]
  interval_cases i <;> simp

theorem init : Statement .init := by rfl
theorem clearAll : Statement .clearAll := by rfl
theorem flush : Statement .flush := by rfl
theorem image (rows : Vector Byte 8) : Statement (.image rows) := by
  simp [Statement, encode, rowOf, row, opcodeOf_encodeI]
theorem setPixel (r c m : Byte) : Statement (.setPixel r c m) := by
  simp [Statement, encode, rowOf, row, opcodeOf_encodeP]
theorem renderHex (v : RenderValue) (l sl : Bool) : Statement (.renderHex v l sl) := by
  simp [Statement, encode, rowOf, row, opcodeOf_encodeR]
theorem renderDec (v : RenderValue) (l sl : Bool) : Statement (.renderDec v l sl) := by
  simp [Statement, encode, rowOf, row, opcodeOf_encodeR]
theorem regDigit1 (v : Byte) : Statement (.regDigit1 v) := by
  simp only [Statement, encode, encodeFrame, rowOf, row, Machine.frameAddress_append]
theorem regDigit2 (v : Byte) : Statement (.regDigit2 v) := by
  simp only [Statement, encode, encodeFrame, rowOf, row, Machine.frameAddress_append]
theorem regDigit3 (v : Byte) : Statement (.regDigit3 v) := by
  simp only [Statement, encode, encodeFrame, rowOf, row, Machine.frameAddress_append]
theorem regDigit4 (v : Byte) : Statement (.regDigit4 v) := by
  simp only [Statement, encode, encodeFrame, rowOf, row, Machine.frameAddress_append]
theorem regDigit5 (v : Byte) : Statement (.regDigit5 v) := by
  simp only [Statement, encode, encodeFrame, rowOf, row, Machine.frameAddress_append]
theorem regDigit6 (v : Byte) : Statement (.regDigit6 v) := by
  simp only [Statement, encode, encodeFrame, rowOf, row, Machine.frameAddress_append]
theorem regDigit7 (v : Byte) : Statement (.regDigit7 v) := by
  simp only [Statement, encode, encodeFrame, rowOf, row, Machine.frameAddress_append]
theorem regDigit8 (v : Byte) : Statement (.regDigit8 v) := by
  simp only [Statement, encode, encodeFrame, rowOf, row, Machine.frameAddress_append]
theorem regDecode (v : Byte) : Statement (.regDecode v) := by
  simp only [Statement, encode, encodeFrame, rowOf, row, Machine.frameAddress_append]
theorem regIntensity (v : Byte) : Statement (.regIntensity v) := by
  simp only [Statement, encode, encodeFrame, rowOf, row, Machine.frameAddress_append]
theorem regScanLimit (v : Byte) : Statement (.regScanLimit v) := by
  simp only [Statement, encode, encodeFrame, rowOf, row, Machine.frameAddress_append]
theorem regShutdown (v : Byte) : Statement (.regShutdown v) := by
  simp only [Statement, encode, encodeFrame, rowOf, row, Machine.frameAddress_append]
theorem regDispTest (v : Byte) : Statement (.regDispTest v) := by
  simp only [Statement, encode, encodeFrame, rowOf, row, Machine.frameAddress_append]

end Sys2Proof.Laws.EncodeFitsRow
end

