-- ==== Sys2Proof/Laws/Step.lean ====
section
/-! SUPPORT. What one step can do, said once. -/

namespace Sys2Proof.Machine

@[simp] theorem whenInitialised_of {s : State} (h : s.inited = true) (k : State → Result) :
    whenInitialised s k = k s := by
  simp [whenInitialised, h]

@[simp] theorem whenInitialised_not {s : State} (h : s.inited = false) (k : State → Result) :
    whenInitialised s k = .refused .notInitialised := by
  simp [whenInitialised, h, refuse]

@[simp] theorem whenUninitialised_of {s : State} (h : s.inited = false) (k : State → Result) :
    whenUninitialised s k = k s := by
  simp [whenUninitialised, h]

@[simp] theorem whenUninitialised_not {s : State} (h : s.inited = true) (k : State → Result) :
    whenUninitialised s k = .refused .alreadyInitialised := by
  simp [whenUninitialised, h, refuse]

theorem index8_of_lt {b : Byte} (h : b.toNat < 8) : index8 b = some ⟨b.toNat, h⟩ := by
  simp [index8, h]

theorem index8_of_ge {b : Byte} (h : 8 ≤ b.toNat) : index8 b = none := by
  simp [index8, Nat.not_lt.mpr h]

/-- A pin event that answers a next state leaves the block's own half as the event says: the buffer, the flag, the
treatment and the inputs as they were, the event at the end of the trace. -/
theorem pinEvent_cases {e : PinEvent} {s t : State} (h : pinEvent e s = .next t) :
    t.buf = s.buf ∧ t.inited = s.inited ∧ t.sinkOther = s.sinkOther ∧ t.input = s.input ∧
      t.trace = s.trace ++ [e] := by
  cases e with
  | cfgOut p => cases h; exact ⟨rfl, rfl, rfl, rfl, rfl⟩
  | set p l =>
    cases p with
    | clk =>
      simp only [pinEvent, pinSet] at h
      split at h <;> (cases h; exact ⟨rfl, rfl, rfl, rfl, rfl⟩)
    | din => cases h; exact ⟨rfl, rfl, rfl, rfl, rfl⟩
    | cs =>
      simp only [pinEvent, pinSet] at h
      split at h
      · obtain ⟨regs, rfl⟩ := sinkLatch_cases h
        exact ⟨rfl, rfl, rfl, rfl, rfl⟩
      · cases h; exact ⟨rfl, rfl, rfl, rfl, rfl⟩

/-- A step that answers a next state: idle, a decoded command, a latched frame, or another wire event. -/
theorem step_cases {s t : State} (h : step s = .next t) :
    (s.input = [] ∧ t = s) ∨
    (∃ w rest i, s.input = .command w :: rest ∧ decodeCommand w = .ok i ∧
      exec i { s with input := rest } = .next t) ∨
    (∃ e rest i, s.input = .wire e :: rest ∧ closesFrame e s = true ∧ decodeFrame s.sinkSr = .ok i ∧
      exec i (drive .cs true { s with input := rest }) = .next t) ∨
    (∃ e rest, s.input = .wire e :: rest ∧ (closesFrame e s = false ∨ ∃ x, decodeFrame s.sinkSr = .error x) ∧
      pinEvent e { s with input := rest } = .next t) := by
  unfold step fetch at h
  cases hi : s.input with
  | nil =>
    simp only [hi] at h
    cases h
    exact .inl ⟨rfl, rfl⟩
  | cons x rest =>
    cases x with
    | command w =>
      simp only [hi] at h
      cases hd : decodeCommand w with
      | ok i =>
        simp only [hd] at h
        exact .inr (.inl ⟨w, rest, i, rfl, hd, h⟩)
      | error e =>
        simp only [hd] at h
        cases h
    | wire e =>
      simp only [hi] at h
      cases hc : closesFrame e s with
      | true =>
        cases hd : decodeFrame s.sinkSr with
        | ok i =>
          simp only [hc, hd, if_true] at h
          exact .inr (.inr (.inl ⟨e, rest, i, rfl, hc, rfl, h⟩))
        | error x =>
          simp only [hc, hd, if_true] at h
          exact .inr (.inr (.inr ⟨e, rest, rfl, .inr ⟨x, rfl⟩, h⟩))
      | false =>
        simp only [hc, Bool.false_eq_true, if_false] at h
        exact .inr (.inr (.inr ⟨e, rest, rfl, .inl hc, h⟩))

/-- A step of a host that only issues commands: idle, or a decoded command. -/
theorem step_cases_of_hostOnly {s t : State} (hh : s.HostOnly) (h : step s = .next t) :
    (s.input = [] ∧ t = s) ∨
    (∃ w rest i, s.input = .command w :: rest ∧ decodeCommand w = .ok i ∧
      exec i { s with input := rest } = .next t) := by
  rcases step_cases h with h | h | ⟨e, rest, _, hi, _⟩ | ⟨e, rest, hi, _⟩
  · exact .inl h
  · exact .inr h
  · simp [State.HostOnly, hi, Input.isCommand] at hh
  · simp [State.HostOnly, hi, Input.isCommand] at hh

/-- A command word decodes to one of the seven commands. -/
theorem isCommand_of_decodeCommand {w : CmdWord} {i : Instr} (h : decodeCommand w = .ok i) : i.isCommand = true := by
  unfold decodeCommand at h
  split at h <;> cases h <;> rfl

/-- A frame decodes to one of the thirteen frames. -/
theorem isFrame_of_decodeFrame {f : Frame} {i : Instr} (h : decodeFrame f = .ok i) : i.isCommand = false := by
  unfold decodeFrame at h
  split at h <;> cases h <;> rfl

end Sys2Proof.Machine
end

