-- ==== Sys2Proof/Machine/Assembler.lean ====
section
/-! DEFINITION. The textual form of a command (spec/30_encoding.md R97): mnemonic, operands separated by commas, one
command a line, `;` starts a comment, numbers decimal or `0x` hexadecimal. It is no part of the machine's step.
DESIGN CHOICE, log entry 21: blanks and tabs may stand around a token, mnemonics are upper case, and a hexadecimal digit
may be of either case. safe: only the reading of a text. -/

namespace Sys2Proof.Machine

/-- Why a line names no command. -/
inductive AsmError where
  | unknownMnemonic
  | badOperands
  deriving DecidableEq, Repr

/-- A blank or a tab. -/
def isBlankChar (c : Char) : Bool := c == ' ' || c == '\t'

/-- A token without the blanks around it. -/
def trimBlanks (t : List Char) : List Char :=
  ((t.dropWhile isBlankChar).reverse.dropWhile isBlankChar).reverse

/-- The pieces between commas. -/
def splitCommas : List Char → List (List Char)
  | [] => [[]]
  | c :: cs =>
    if c == ',' then [] :: splitCommas cs
    else match splitCommas cs with
      | [] => [[c]]
      | x :: xs => (c :: x) :: xs

/-- The value of a digit, in decimal or hexadecimal. -/
def digitValue (c : Char) : Option Nat :=
  let n := c.toNat
  if 48 ≤ n && n ≤ 57 then some (n - 48)
  else if 65 ≤ n && n ≤ 70 then some (n - 55)
  else if 97 ≤ n && n ≤ 102 then some (n - 87)
  else none

/-- The digits of a number in a base, from the left. -/
def parseDigits (base : Nat) : Nat → List Char → Option Nat
  | acc, [] => some acc
  | acc, c :: cs =>
    match digitValue c with
    | some d => if d < base then parseDigits base (acc * base + d) cs else none
    | none => none

/-- A number below a bound, decimal or `0x` hexadecimal. -/
def parseNumber (bound : Nat) (t : List Char) : Option Nat :=
  match t with
  | [] => none
  | ['0', 'x'] => none
  | '0' :: 'x' :: cs => (parseDigits 16 0 cs).filter (· < bound)
  | cs => (parseDigits 10 0 cs).filter (· < bound)

/-- A byte operand. -/
def parseByte (t : List Char) : Option Byte := (parseNumber 256 t).map (BitVec.ofNat 8)

/-- The `mode` operand: a number, or one of the names `clear` (0), `set` (1), `toggle` (2). -/
def parseMode (t : List Char) : Option Byte :=
  if t = ['c', 'l', 'e', 'a', 'r'] then some 0
  else if t = ['s', 'e', 't'] then some 1
  else if t = ['t', 'o', 'g', 'g', 'l', 'e'] then some 2
  else parseByte t

/-- A flag operand, 0 or 1. -/
def parseFlag (t : List Char) : Option Bool := (parseNumber 2 t).map (· == 1)

/-- The operands of IMAGE. -/
def parseImage (ops : List (List Char)) : Option Instr :=
  match ops.mapM parseByte with
  | some [r0, r1, r2, r3, r4, r5, r6, r7] => some (.image #v[r0, r1, r2, r3, r4, r5, r6, r7])
  | _ => none

/-- The operands of SETPIXEL. -/
def parsePixel (ops : List (List Char)) : Option Instr :=
  match ops with
  | [r, c, m] =>
    match parseByte r, parseByte c, parseMode m with
    | some row, some col, some mode => some (.setPixel row col mode)
    | _, _, _ => none
  | _ => none

/-- The operands of RENDERHEX and RENDERDEC. -/
def parseRender (mk : RenderValue → Bool → Bool → Instr) (ops : List (List Char)) : Option Instr :=
  match ops with
  | [v, l, sl] =>
    match parseNumber 4294967296 v, parseFlag l, parseFlag sl with
    | some value, some dotLast, some dotSecondLast => some (mk (BitVec.ofNat 32 value) dotLast dotSecondLast)
    | _, _, _ => none
  | _ => none

/-- The operand texts after a mnemonic; none where nothing follows it. -/
def operandTexts (t : List Char) : List (List Char) :=
  match trimBlanks t with
  | [] => []
  | cs => (splitCommas cs).map trimBlanks

/-- A command without operands takes no text. -/
def parseNone (i : Instr) (ops : List (List Char)) : Option Instr := if ops = [] then some i else none

/-- The operand reader a mnemonic selects. -/
def operandReader (mnemonic : List Char) : Option (List (List Char) → Option Instr) :=
  if mnemonic = ['I', 'N', 'I', 'T'] then some (parseNone .init)
  else if mnemonic = ['C', 'L', 'E', 'A', 'R', 'A', 'L', 'L'] then some (parseNone .clearAll)
  else if mnemonic = ['F', 'L', 'U', 'S', 'H'] then some (parseNone .flush)
  else if mnemonic = ['I', 'M', 'A', 'G', 'E'] then some parseImage
  else if mnemonic = ['S', 'E', 'T', 'P', 'I', 'X', 'E', 'L'] then some parsePixel
  else if mnemonic = ['R', 'E', 'N', 'D', 'E', 'R', 'H', 'E', 'X'] then some (parseRender .renderHex)
  else if mnemonic = ['R', 'E', 'N', 'D', 'E', 'R', 'D', 'E', 'C'] then some (parseRender .renderDec)
  else none

/-- One line of text: nothing for an empty or comment line, else its command (R97). -/
def assembleLine (line : List Char) : Except AsmError (Option Instr) :=
  match trimBlanks (line.takeWhile (· != ';')) with
  | [] => .ok none
  | text =>
    match operandReader (text.takeWhile (fun c => !isBlankChar c)) with
    | none => .error .unknownMnemonic
    | some reader =>
      match reader (operandTexts (text.dropWhile (fun c => !isBlankChar c))) with
      | some i => .ok (some i)
      | none => .error .badOperands

/-- The word a line encodes as; the encoder writes 0 in every ignored bit (R97). -/
def assembleWord (line : List Char) : Except AsmError (Option Encoded) :=
  (assembleLine line).map (Option.map encode)

end Sys2Proof.Machine
end

