-- ==== Sys2Proof/Tests/Slice0.lean ====
section
/-! SUPPORT. Small tests whose expected results are written out from spec/95_test_vectors.md, spec/30_encoding.md and the
rules named beside them, the smoke test of WellFormed, and the witnesses of the statements that have hypotheses. -/

namespace Sys2Proof.Tests

open Sys2Proof Sys2Proof.Machine

/-- An initialised block with the lines at rest, and `BUF` as given (R213). -/
def ready (buf : Vector Byte 8) : State :=
  { State.reset with
    buf := buf
    dir := ⟨.out, .out, .out⟩
    lvl := idleLines false
    inited := true
    sinkReg := ⟨0, 0, 0, 0, 0, 0, 0, 0, 0, 1, 7, 1, 0⟩ }

/-- The same with the trace INIT leaves. -/
def booted (buf : Vector Byte 8) : State := { ready buf with trace := configEvents ++ framesEvents initFrames }

/-- Whether a result is a next state that passes a check. -/
def nextIs (r : Result) (check : State → Bool) : Bool :=
  match r with
  | .next s => check s
  | .fault _ => false
  | .refused _ => false

/-- Whether a result is the refusal for a reason. -/
def refusedFor (r : Result) (reason : Refusal) : Bool :=
  match r with
  | .next _ => false
  | .fault _ => false
  | .refused x => x == reason

theorem exists_next {r : Result} {c : State → Bool} (h : nextIs r c = true) : ∃ s, r = .next s := by
  cases r with
  | next s => exact ⟨s, rfl⟩
  | fault f => cases h
  | refused f => cases h

/-! WellFormed refuses an index above 7 (R95). -/

theorem test_wf_row_8 : (Instr.setPixel 8 0 1).wf = false := by decide
theorem test_wf_col_8 : (Instr.setPixel 0 8 0).wf = false := by decide
theorem test_wf_row_7_col_7 : (Instr.setPixel 7 7 255).wf = true := by decide

/-! Every row of the table: a word written out from the spec's encoding decodes to its instruction (R83, R91, R97,
X6, X9, X17c, X18, X36). -/

theorem test_decode_init : decodeTableWord 72 0x010000000000000000 = some (.init) := by decide
theorem test_decode_clearAll : decodeTableWord 72 0x020000000000000000 = some (.clearAll) := by decide
theorem test_decode_flush : decodeTableWord 72 0x030000000000000000 = some (.flush) := by decide
theorem test_decode_image : decodeTableWord 72 0x040102040810204080 = some (.image #v[0x01, 0x02, 0x04, 0x08, 0x10, 0x20, 0x40, 0x80]) := by decide
theorem test_decode_setPixel : decodeTableWord 72 0x0500000000000304FF = some (.setPixel 3 4 0xFF) := by decide
theorem test_decode_renderHex : decodeTableWord 72 0x0600000001ABCDEF01 = some (.renderHex 0xABCDEF01 true false) := by decide
theorem test_decode_renderDec : decodeTableWord 72 0x0700000002FFFFFFFF = some (.renderDec 0xFFFFFFFF false true) := by decide
theorem test_decode_regDigit1 : decodeTableWord 16 0x0101 = some (.regDigit1 0x01) := by decide
theorem test_decode_regDigit2 : decodeTableWord 16 0x0202 = some (.regDigit2 0x02) := by decide
theorem test_decode_regDigit3 : decodeTableWord 16 0x0304 = some (.regDigit3 0x04) := by decide
theorem test_decode_regDigit4 : decodeTableWord 16 0x0408 = some (.regDigit4 0x08) := by decide
theorem test_decode_regDigit5 : decodeTableWord 16 0x0510 = some (.regDigit5 0x10) := by decide
theorem test_decode_regDigit6 : decodeTableWord 16 0x0620 = some (.regDigit6 0x20) := by decide
theorem test_decode_regDigit7 : decodeTableWord 16 0x0740 = some (.regDigit7 0x40) := by decide
theorem test_decode_regDigit8 : decodeTableWord 16 0x0880 = some (.regDigit8 0x80) := by decide
theorem test_decode_regDecode : decodeTableWord 16 0x0900 = some (.regDecode 0x00) := by decide
theorem test_decode_regIntensity : decodeTableWord 16 0x0A01 = some (.regIntensity 0x01) := by decide
theorem test_decode_regScanLimit : decodeTableWord 16 0x0B07 = some (.regScanLimit 0x07) := by decide
theorem test_decode_regShutdown : decodeTableWord 16 0x0C01 = some (.regShutdown 0x01) := by decide
theorem test_decode_regDispTest : decodeTableWord 16 0x0F00 = some (.regDispTest 0x00) := by decide

/-! Ignored bits, reserved opcodes and addresses, and an index the decoder lets through (R85, R92, R93, X17, X17d, X38 to X40, X43). -/

theorem test_decode_ignored_pixel_bits : decodeTableWord 72 0x05DEADBEEF00030402 = some (.setPixel 3 4 2) := by decide
theorem test_decode_ignored_init_bits : decodeTableWord 72 0x01FFFFFFFFFFFFFFFF = some .init := by decide
theorem test_decode_ignored_render_bit :
    decodeTableWord 72 0x0600000004ABCDEF01 = some (.renderHex 0xABCDEF01 false false) := by decide
theorem test_decode_row_8 : decodeTableWord 72 0x050000000000080001 = some (.setPixel 8 0 1) := by decide
theorem test_decode_op_00 : decodeCommand 0x000000000000000000 = .error (.illegalOpcode 0x00) := by decide
theorem test_decode_op_08 : decodeCommand 0x080000000000000000 = .error (.illegalOpcode 0x08) := by decide
theorem test_decode_op_FF : decodeCommand 0xFF0000000000000000 = .error (.illegalOpcode 0xFF) := by decide
theorem test_decode_frame_0D : decodeFrame 0x0D55 = .error (.unlistedAddress 0x0D) := by decide
theorem test_decode_frame_00 : decodeFrame 0x0055 = .error (.unlistedAddress 0x00) := by decide
theorem test_decode_frame_1A : decodeFrame 0x1A01 = .error (.unlistedAddress 0x1A) := by decide

/-! The encoder on the spec's own words (R97). -/

theorem test_encode_pixel : encode (.setPixel 7 7 2) = .command 0x050000000000070702 := by decide
theorem test_encode_hex : encode (.renderHex 0xABCDEF01 true false) = .command 0x0600000001ABCDEF01 := by decide
theorem test_encode_dec : encode (.renderDec 12345 false false) = .command 0x070000000000003039 := by decide
theorem test_encode_image : encode (.image #v[0x01, 0x02, 0x04, 0x08, 0x10, 0x20, 0x40, 0x80]) =
    .command 0x040102040810204080 := by decide

/-! SEND and WRITE (X1, X4). -/

theorem test_send_A5 : nextIs (send 0xA5 State.reset) (fun t =>
    t.trace == [.set .clk false, .set .din true, .set .clk true, .set .clk false, .set .din false, .set .clk true,
      .set .clk false, .set .din true, .set .clk true, .set .clk false, .set .din false, .set .clk true,
      .set .clk false, .set .din false, .set .clk true, .set .clk false, .set .din true, .set .clk true,
      .set .clk false, .set .din false, .set .clk true, .set .clk false, .set .din true, .set .clk true]) = true := by
  decide +kernel
theorem test_write_0A01 : nextIs (write 0x0A 0x01 (ready blankRow)) (fun t =>
    t.trace.length == 50 && t.sinkSr == 0x0A01 && t.sinkReg.intensity == 0x01 && t.lvl == ⟨.high, .high, .high⟩ &&
    t.trace.take 4 == [.set .cs false, .set .clk false, .set .din false, .set .clk true]) = true := by
  decide +kernel

/-! The sink (X35, X35b, X36, X37). -/

/-- The start of X35: `SINK.SR = 0xBEEF`, with the given levels of `CLK` and `CS`. -/
def sinkAt (sr : Frame) (clk cs : PinLevel) : State := { ready blankRow with sinkSr := sr, lvl := ⟨clk, .high, cs⟩ }

theorem test_shift_BEEF : nextIs (pinSet .clk true (sinkAt 0xBEEF .low .high)) (fun t => t.sinkSr == 0x7DDF) = true := by
  decide
theorem test_no_edge_no_shift :
    nextIs (pinSet .clk true (sinkAt 0xBEEF .high .high)) (fun t => t.sinkSr == 0xBEEF) = true := by decide
theorem test_latch_0C01 : nextIs (pinSet .cs true (sinkAt 0x0C01 .high .low)) (fun t =>
    t.sinkReg == ⟨0, 0, 0, 0, 0, 0, 0, 0, 0, 1, 7, 0x01, 0⟩ && t.sinkSr == 0x0C01) = true := by decide
theorem test_latch_0D55_refused :
    refusedFor (pinSet .cs true (sinkAt 0x0D55 .high .low)) .unlistedSinkAddress = true := by decide
theorem test_step_0D55_refused :
    refusedFor (step (State.reset.withFetchWord 16 0x0D55)) .unlistedSinkAddress = true := by decide

/-- The same start under the other treatment of R179. -/
def sinkOpenAt (sr : Frame) : State := { sinkAt sr .high .low with sinkOther := .effect }

theorem test_latch_0D55_effect : nextIs (pinSet .cs true (sinkOpenAt 0x0D55)) (fun t =>
    t.sinkSr == 0x0D55 && t.lvl.cs == .high && t.sinkOther == .effect) = true := by decide
theorem test_latch_0C01_under_effect : nextIs (pinSet .cs true (sinkOpenAt 0x0C01)) (fun t =>
    t.sinkReg == ⟨0, 0, 0, 0, 0, 0, 0, 0, 0, 1, 7, 0x01, 0⟩) = true := by decide

/-! The commands, one step each (X6 to X9, X17, X38, X41, X42, X43b, P5). -/

theorem test_step_init : nextIs (step (State.reset.withFetchWord 72 0x010000000000000000)) (fun t =>
    t.trace.length == 653 && t.inited && t.sinkSr == 0x0800 && t.dir == ⟨.out, .out, .out⟩ &&
    t.lvl == ⟨.high, .low, .high⟩ && t.sinkReg == ⟨0, 0, 0, 0, 0, 0, 0, 0, 0, 1, 7, 1, 0⟩) = true := by decide +kernel
theorem test_init_twice : refusedFor (step ((ready blankRow).withFetchWord 72 0x010000000000000000)) .alreadyInitialised = true := by
  decide
theorem test_step_clearAll : nextIs (step
    ({ ready blankRow with sinkReg := ⟨9, 9, 9, 9, 9, 9, 9, 9, 0, 1, 7, 1, 0⟩ }.withFetchWord 72 0x020000000000000000))
    (fun t => t.trace.length == 400 && t.sinkReg == ⟨0, 0, 0, 0, 0, 0, 0, 0, 0, 1, 7, 1, 0⟩) = true := by decide +kernel
theorem test_clearAll_before_init : refusedFor (step (State.reset.withFetchWord 72 0x020000000000000000)) .notInitialised = true := by
  decide
theorem test_step_flush : nextIs (step
    ((ready #v[0x01, 0x02, 0x04, 0x08, 0x10, 0x20, 0x40, 0x80]).withFetchWord 72 0x030000000000000000))
    (fun t => t.trace.length == 400 && t.sinkSr == 0x0880 &&
      t.sinkReg == ⟨0x01, 0x02, 0x04, 0x08, 0x10, 0x20, 0x40, 0x80, 0, 1, 7, 1, 0⟩) = true := by decide +kernel
theorem test_flush_before_init : refusedFor (step (State.reset.withFetchWord 72 0x030000000000000000)) .notInitialised = true := by
  decide
theorem test_step_image : nextIs (step (State.reset.withFetchWord 72 0x040102040810204080)) (fun t =>
    t.buf == #v[0x01, 0x02, 0x04, 0x08, 0x10, 0x20, 0x40, 0x80] && t.trace == []) = true := by decide
theorem test_step_pixel_toggles : nextIs (step
    ((ready #v[0, 0, 0, 0x5A, 0, 0, 0, 0]).withFetchWord 72 0x0500000000000304FF))
    (fun t => t.buf == #v[0, 0, 0, 0x52, 0, 0, 0, 0]) = true := by decide
theorem test_pixel_row_8_refused : refusedFor (step ((ready blankRow).withFetchWord 72 0x050000000000080001)) .indexOutOfRange = true := by
  decide
theorem test_render_hex_lone_dot : exec (.renderHex 0x5 false true) (ready blankRow) =
    .next (State.showing #v[0, 0, 0, 0, 0, 0, 0x01, glyph 5]
      { ready blankRow with buf := #v[0, 0, 0, 0, 0, 0, 0x01, glyph 5] }) := by
  rw [exec, execRenderHex, whenInitialised_of rfl, renderPacked_eq]
  rfl
theorem test_hex_before_init : refusedFor (step (State.reset.withFetchWord 72 0x060000000000000001)) .notInitialised = true := by
  decide
theorem test_render_dec_12345 : exec (.renderDec 12345 false false) (ready blankRow) =
    .next (State.showing #v[0, 0, 0, glyph 1, glyph 2, glyph 3, glyph 4, glyph 5]
      { ready blankRow with buf := #v[0, 0, 0, glyph 1, glyph 2, glyph 3, glyph 4, glyph 5] }) := by
  rw [exec, execRenderDec, whenInitialised_of rfl, renderPacked_eq]
  rfl
theorem test_dec_before_init : refusedFor (step (State.reset.withFetchWord 72 0x070000000000000001)) .notInitialised = true := by
  decide
theorem test_illegal_word : refusedFor (step (State.reset.withFetchWord 72 0x080000000000000000)) .illegalOpcode = true := by decide
theorem test_idle : step State.reset = .next State.reset := by rfl

/-! Each wire frame, latched in one step as the first thing after reset (R172 to R178). -/

theorem test_step_regDigit1 : nextIs (step (State.reset.withFetchWord 16 0x01C3)) (fun s =>
    s.sinkReg == ⟨0xC3, 0, 0, 0, 0, 0, 0, 0, 0, 0, 0, 0, 0⟩) = true := by decide
theorem test_step_regDigit2 : nextIs (step (State.reset.withFetchWord 16 0x02C3)) (fun s =>
    s.sinkReg == ⟨0, 0xC3, 0, 0, 0, 0, 0, 0, 0, 0, 0, 0, 0⟩) = true := by decide
theorem test_step_regDigit3 : nextIs (step (State.reset.withFetchWord 16 0x03C3)) (fun s =>
    s.sinkReg == ⟨0, 0, 0xC3, 0, 0, 0, 0, 0, 0, 0, 0, 0, 0⟩) = true := by decide
theorem test_step_regDigit4 : nextIs (step (State.reset.withFetchWord 16 0x04C3)) (fun s =>
    s.sinkReg == ⟨0, 0, 0, 0xC3, 0, 0, 0, 0, 0, 0, 0, 0, 0⟩) = true := by decide
theorem test_step_regDigit5 : nextIs (step (State.reset.withFetchWord 16 0x05C3)) (fun s =>
    s.sinkReg == ⟨0, 0, 0, 0, 0xC3, 0, 0, 0, 0, 0, 0, 0, 0⟩) = true := by decide
theorem test_step_regDigit6 : nextIs (step (State.reset.withFetchWord 16 0x06C3)) (fun s =>
    s.sinkReg == ⟨0, 0, 0, 0, 0, 0xC3, 0, 0, 0, 0, 0, 0, 0⟩) = true := by decide
theorem test_step_regDigit7 : nextIs (step (State.reset.withFetchWord 16 0x07C3)) (fun s =>
    s.sinkReg == ⟨0, 0, 0, 0, 0, 0, 0xC3, 0, 0, 0, 0, 0, 0⟩) = true := by decide
theorem test_step_regDigit8 : nextIs (step (State.reset.withFetchWord 16 0x08C3)) (fun s =>
    s.sinkReg == ⟨0, 0, 0, 0, 0, 0, 0, 0xC3, 0, 0, 0, 0, 0⟩) = true := by decide
theorem test_step_regDecode : nextIs (step (State.reset.withFetchWord 16 0x09C3)) (fun s =>
    s.sinkReg == ⟨0, 0, 0, 0, 0, 0, 0, 0, 0xC3, 0, 0, 0, 0⟩) = true := by decide
theorem test_step_regIntensity : nextIs (step (State.reset.withFetchWord 16 0x0AC3)) (fun s =>
    s.sinkReg == ⟨0, 0, 0, 0, 0, 0, 0, 0, 0, 0xC3, 0, 0, 0⟩) = true := by decide
theorem test_step_regScanLimit : nextIs (step (State.reset.withFetchWord 16 0x0BC3)) (fun s =>
    s.sinkReg == ⟨0, 0, 0, 0, 0, 0, 0, 0, 0, 0, 0xC3, 0, 0⟩) = true := by decide
theorem test_step_regShutdown : nextIs (step (State.reset.withFetchWord 16 0x0CC3)) (fun s =>
    s.sinkReg == ⟨0, 0, 0, 0, 0, 0, 0, 0, 0, 0, 0, 0xC3, 0⟩) = true := by decide
theorem test_step_regDispTest : nextIs (step (State.reset.withFetchWord 16 0x0FC3)) (fun s =>
    s.sinkReg == ⟨0, 0, 0, 0, 0, 0, 0, 0, 0, 0, 0, 0, 0xC3⟩) = true := by decide

/-! SETPIXEL on one byte (X10, X11, X15b, X16b, X16c). -/

theorem test_pixel_col_0_set : editPixel (pixelMode 0x01) (pixelMask 0) 0x00 = 0x80 := by decide
theorem test_pixel_col_7_set : editPixel (pixelMode 0x01) (pixelMask 7) 0x00 = 0x01 := by decide
theorem test_pixel_mode_80 : editPixel (pixelMode 0x80) (pixelMask 6) 0xAA = 0xA8 := by decide
theorem test_pixel_clear : editPixel (pixelMode 0x00) (pixelMask 3) 0xF0 = 0xE0 := by decide

/-! The renderer (X20 to X24) and packed BCD (X28 to X34). The glyphs stay symbols. -/

theorem test_hex_interior_zeros : hexPatterns 0x00100200 =
    #v[0, 0, glyph 1, glyph 0, glyph 0, glyph 2, glyph 0, glyph 0] := by rfl
theorem test_hex_top_nibble : hexPatterns 0xF0000000 =
    #v[glyph 15, glyph 0, glyph 0, glyph 0, glyph 0, glyph 0, glyph 0, glyph 0] := by rfl
theorem test_hex_dot_last : addDots (hexPatterns 0xABCDEF01) true false =
    #v[glyph 10, glyph 11, glyph 12, glyph 13, glyph 14, glyph 15, glyph 0, glyph 1 ||| 0x01] := by rfl
theorem test_hex_lone_dot : addDots (hexPatterns 0x5) false true = #v[0, 0, 0, 0, 0, 0, 0x01, glyph 5] := by rfl
theorem test_bcd_12345 : packBcd 12345 = 0x00012345 := by decide
theorem test_bcd_99999999 : packBcd 99999999 = 0x99999999 := by decide
theorem test_bcd_ten_to_eight : packBcd 100000000 = 0x00000000 := by decide
theorem test_bcd_123456789 : packBcd 123456789 = 0x23456789 := by decide
theorem test_bcd_1000000005 : packBcd 1000000005 = 0x00000005 := by decide
theorem test_bcd_largest : packBcd 4294967295 = 0x94967295 := by decide

/-! The assembler (R97's three examples, a comment line, and a wrong mnemonic). -/

theorem test_asm_dec : assembleWord ['R', 'E', 'N', 'D', 'E', 'R', 'D', 'E', 'C', ' ', '1', '2', '3', '4', '5', ',', ' ',
    '0', ',', ' ', '0'] = .ok (some (.command 0x070000000000003039)) := by decide +kernel
theorem test_asm_hex : assembleWord ['R', 'E', 'N', 'D', 'E', 'R', 'H', 'E', 'X', ' ', '0', 'x', 'A', 'B', 'C', 'D', 'E',
    'F', '0', '1', ',', '1', ',', '0', ' ', ';', 'x'] = .ok (some (.command 0x0600000001ABCDEF01)) := by decide +kernel
theorem test_asm_pixel : assembleWord ['S', 'E', 'T', 'P', 'I', 'X', 'E', 'L', ' ', '7', ',', ' ', '7', ',', ' ', 't', 'o',
    'g', 'g', 'l', 'e'] = .ok (some (.command 0x050000000000070702)) := by decide +kernel
theorem test_asm_comment : assembleWord [' ', ';', ' ', 'I'] = .ok none := by decide +kernel
theorem test_asm_operand_out_of_range : assembleLine ['S', 'E', 'T', 'P', 'I', 'X', 'E', 'L', ' ', '2', '5', '6', ',', '0',
    ',', '0'] = .error .badOperands := by decide +kernel
theorem test_asm_send_is_no_command : assembleLine ['S', 'E', 'N', 'D', ' ', '1'] = .error .unknownMnemonic := by
  decide +kernel

/-! Witnesses: for every statement with hypotheses, a state and operands that meet them together. -/

/-- A block with one command word pending. -/
def pending (s : State) (w : CmdWord) : State := { s with input := [.command w] }

theorem witness_WriteAssertsChipSelectOnceAroundTwoSends : SinkReg.ofAddress 0x01 = some .digit1 ∧
    SinkReg.ofAddress 0x0F = some .dispTest := by decide
theorem witness_WriteLatchesItsValueAndNothingElse : SinkReg.ofAddress 0x0C = some .shutdown ∧ SinkReg.digit1 ≠ .shutdown := by
  decide
theorem witness_WriteToUnlistedAddressIsRefused : SinkReg.ofAddress 0x00 = none ∧ SinkReg.ofAddress 0x0D = none ∧
    SinkReg.ofAddress 0x0E = none ∧ SinkReg.ofAddress 0x10 = none ∧ SinkReg.ofAddress 0xFF = none ∧
    State.reset.sinkOther = .refuse := by decide
theorem witness_WriteToUnlistedAddressTakesItsEffect : SinkReg.ofAddress 0x00 = none ∧ SinkReg.ofAddress 0xFF = none ∧
    (sinkOpenAt 0x0D55).sinkOther = .effect := by decide
theorem witness_ClockRisingEdgeShiftsDataIn :
    ((sinkAt 0xBEEF .low .high).lvl.din = .ofBit true ∧ (sinkAt 0xBEEF .low .high).lvl.clk = .low) ∧
    ((sinkAt 0xBEEF .high .high).lvl.din = .ofBit true ∧ (sinkAt 0xBEEF .high .high).lvl.clk = .high) := by decide
theorem witness_EventsWithoutRisingEdgeLeaveTheSink : (ready blankRow).lvl.cs = .high := by decide
theorem witness_LatchRunsTheFrameTheSinkHolds :
    (sinkAt 0x0C01 .high .low).lvl.cs = .low ∧ decodeFrame (sinkAt 0x0C01 .high .low).sinkSr = .ok (.regShutdown 1) := by decide
theorem witness_LatchOfUnlistedFrameIsRefused : (sinkAt 0x0D55 .high .low).lvl.cs = .low ∧
    decodeFrame (sinkAt 0x0D55 .high .low).sinkSr = .error (.unlistedAddress 0x0D) ∧
    (sinkAt 0x0D55 .high .low).sinkOther = .refuse := by decide
theorem witness_LatchOfUnlistedFrameTakesItsEffect : (sinkOpenAt 0x0D55).lvl.cs = .low ∧
    decodeFrame (sinkOpenAt 0x0D55).sinkSr = .error (.unlistedAddress 0x0D) ∧
    (sinkOpenAt 0x0D55).sinkOther = .effect := by decide
theorem witness_InitConfiguresAndProgramsTheChip : State.reset.inited = false := by decide
theorem witness_ClearAllZeroesTheDigitsInOrder : (ready blankRow).inited = true := by decide
theorem witness_FlushSendsEveryBufferByteInOrder : (ready #v[1, 2, 3, 4, 5, 6, 7, 8]).inited = true := by decide
theorem witness_FlushUpdatesTheDigitsOneAfterAnother : (0 : Nat) ≤ 8 ∧ (8 : Nat) ≤ 8 := by decide
theorem witness_SetPixelEditsExactlyOneBit : (7 : Byte).toNat ≤ 7 ∧ (0 : Byte).toNat ≤ 7 := by decide
theorem witness_PixelToggleAndSetClearLaws : (7 : Byte).toNat ≤ 7 ∧ (2 : Byte) ≠ 0x00 ∧ (2 : Byte) ≠ 0x01 ∧
    (0xFF : Byte) ≠ 0x00 ∧ (0xFF : Byte) ≠ 0x01 := by decide
theorem witness_RenderHexShowsTheNibblesOfItsValue : (ready #v[9, 9, 9, 9, 9, 9, 9, 9]).inited = true := by decide
theorem witness_RenderDecShowsTheDecimalDigits : (booted blankRow).inited = true := by decide
theorem witness_RenderDecOfZeroShowsOneGlyph : (ready blankRow).inited = true := by decide
theorem witness_DisplayEqualsBufferAfterFlushAndRenders : (ready blankRow).inited = true ∧
    (Instr.renderDec 5 true false = .flush ∨ Instr.renderDec 5 true false = .renderHex 5 true false ∨
      Instr.renderDec 5 true false = .renderDec 5 true false) := by decide
theorem witness_EveryCommandAppendsItsEventCount : stopReason .init State.reset = none ∧
    stopReason .flush (ready blankRow) = none ∧ stopReason (.setPixel 7 7 0) State.reset = none := by decide
theorem witness_HostCommandsNeverMeetAnUnlistedAddress : (pending (ready blankRow) 0x030000000000000000).HostOnly := by decide
theorem witness_FrameDecodingLosesNoBit : decodeFrame 0x0FFF = .ok (.regDispTest 0xFF) := by decide
theorem witness_IgnoredBitsChangeNothing :
    ((0x01FFFFFFFFFFFFFFFF : CmdWord).toNat / 2 ^ 64 = (0x010000000000000000 : CmdWord).toNat / 2 ^ 64 ∧
      (0x01FFFFFFFFFFFFFFFF : CmdWord).toNat / 2 ^ 64 ∈ [1, 2, 3]) ∧
    ((0x05DEADBEEF00030402 : CmdWord).toNat / 2 ^ 64 = (0x050000000000030402 : CmdWord).toNat / 2 ^ 64 ∧
      (0x05DEADBEEF00030402 : CmdWord).toNat / 2 ^ 64 = 5 ∧
      (0x05DEADBEEF00030402 : CmdWord).toNat % 2 ^ 24 = (0x050000000000030402 : CmdWord).toNat % 2 ^ 24) ∧
    ((0x0600000004ABCDEF01 : CmdWord).toNat / 2 ^ 64 = (0x0600000000ABCDEF01 : CmdWord).toNat / 2 ^ 64 ∧
      (0x0600000004ABCDEF01 : CmdWord).toNat / 2 ^ 64 ∈ [6, 7] ∧
      (0x0600000004ABCDEF01 : CmdWord).toNat % 2 ^ 34 = (0x0600000000ABCDEF01 : CmdWord).toNat % 2 ^ 34) := by decide
theorem witness_CommandWordsDecodeExactlyForOpcodesOneToSeven :
    (0x00FFFFFFFFFFFFFFFF : CmdWord).toNat / 2 ^ 64 = 0 ∧ 8 ≤ (0x080000000000000000 : CmdWord).toNat / 2 ^ 64 ∧
    (0x070000000000000000 : CmdWord).toNat / 2 ^ 64 ≤ 7 := by decide
theorem witness_StepRunsTheDecodedCommand :
    (pending State.reset 0x010000000000000000).input = [.command 0x010000000000000000] ∧
    decodeCommand 0x010000000000000000 = .ok .init := by decide
theorem witness_StepRunsTheLatchedFrame :
    (State.reset.withFetchWord 16 0x0408).input = [.wire (.set .cs true)] ∧
    (State.reset.withFetchWord 16 0x0408).lvl.cs = .low ∧
    decodeFrame (State.reset.withFetchWord 16 0x0408).sinkSr = .ok (.regDigit4 0x08) := by decide
theorem witness_StepOfAWireEventIsThatPinEvent :
    ({ sinkOpenAt 0x0D55 with input := [.wire (.set .cs true)] } : State).input = [.wire (.set .cs true)] := by decide
theorem witness_StepRefusesAnIllegalWord :
    (pending State.reset 0x080000000000000000).input = [.command 0x080000000000000000] ∧
    8 ≤ (0x080000000000000000 : CmdWord).toNat / 2 ^ 64 ∧
    (pending State.reset 0x00FFFFFFFFFFFFFFFF).input = [.command 0x00FFFFFFFFFFFFFFFF] ∧
    (0x00FFFFFFFFFFFFFFFF : CmdWord).toNat / 2 ^ 64 = 0 := by decide
theorem witness_StepWithoutInputIsIdle : State.reset.input = [] := by decide
theorem witness_StepsOnlyAppendToTheTraceAndKeepInited :
    ∃ t, step (pending State.reset 0x010000000000000000) = .next t :=
  exists_next (c := fun _ => true) (by decide +kernel)
theorem witness_NoStepChangesTheSinkTreatment :
    ∃ t, step { sinkOpenAt 0x0D55 with input := [.wire (.set .cs true)] } = .next t :=
  exists_next (c := fun _ => true) (by decide)
theorem witness_SinkTreatmentNeverReachesACommand :
    (pending State.reset 0x010000000000000000).HostOnly ∧ (pending State.reset 0x030000000000000000).HostOnly ∧
    (∃ t, step (pending State.reset 0x010000000000000000) = .next t) ∧
    refusedFor (step (pending State.reset 0x030000000000000000)) .notInitialised = true :=
  ⟨by decide, by decide, witness_StepsOnlyAppendToTheTraceAndKeepInited, by decide⟩
theorem witness_OnlyImagePixelAndRendersWriteTheBuffer : mayWriteBuf .clearAll = false ∧ Instr.clearAll ≠ .init ∧
    ∃ t, exec .clearAll (ready blankRow) = .next t :=
  ⟨rfl, by decide, exists_next (c := fun _ => true) (by decide +kernel)⟩
theorem witness_invariants_before_init : (pending State.reset 0x010000000000000000).HostOnly ∧
    (pending State.reset 0x010000000000000000).TraceOfWholeFrames ∧
    (pending State.reset 0x010000000000000000).LinesAtRest ∧
    (pending State.reset 0x010000000000000000).ControlsAsInit ∧
    (pending State.reset 0x010000000000000000).SinkFollowsTrace State.reset.sinkSr State.reset.sinkReg ∧
    ∃ t, step (pending State.reset 0x010000000000000000) = .next t :=
  ⟨by decide, .inl ⟨rfl, rfl⟩, ⟨rfl, rfl⟩, fun h => Bool.noConfusion h, rfl,
    witness_StepsOnlyAppendToTheTraceAndKeepInited⟩

/-- The state INIT leaves from reset, with a FLUSH pending (R213). -/
def bootedFlush : State := { pending (booted blankRow) 0x030000000000000000 with sinkSr := 0x0800 }

theorem witness_StepKeepsTheTraceOfWholeFrames : bootedFlush.HostOnly ∧ bootedFlush.TraceOfWholeFrames ∧
    ∃ t, step bootedFlush = .next t :=
  ⟨by decide, .inr ⟨rfl, [], rfl⟩, exists_next (c := fun _ => true) (by decide +kernel)⟩
theorem witness_StepKeepsTheLinesAtRest : bootedFlush.HostOnly ∧ bootedFlush.LinesAtRest ∧
    ∃ t, step bootedFlush = .next t :=
  ⟨by decide, ⟨rfl, false, rfl⟩, witness_StepKeepsTheTraceOfWholeFrames.2.2⟩
theorem witness_StepKeepsTheControlRegistersOfInit : bootedFlush.HostOnly ∧ bootedFlush.ControlsAsInit ∧
    ∃ t, step bootedFlush = .next t :=
  ⟨by decide, fun _ => ⟨rfl, rfl, rfl, rfl, rfl⟩, witness_StepKeepsTheTraceOfWholeFrames.2.2⟩
theorem witness_StepKeepsTheSinkAFunctionOfTheTrace : bootedFlush.HostOnly ∧
    bootedFlush.SinkFollowsTrace State.reset.sinkSr State.reset.sinkReg ∧ ∃ t, step bootedFlush = .next t :=
  ⟨by decide, by unfold State.SinkFollowsTrace; decide +kernel, witness_StepKeepsTheTraceOfWholeFrames.2.2⟩
theorem witness_ChipContentsNeverReachTheBlock : Instr.clearAll.isCommand = true ∧
    ∃ t, exec .clearAll (ready blankRow) = .next t :=
  ⟨rfl, witness_OnlyImagePixelAndRendersWriteTheBuffer.2.2⟩

/-- The host of P2: INIT, IMAGE, SETPIXEL, FLUSH, keeping the contract. -/
def lawfulHost : State := { State.reset with input :=
  [.command 0x010000000000000000, .command 0x040000000000000000, .command 0x050000000000070702,
   .command 0x030000000000000000] }

theorem witness_HostThatKeepsTheContractIsNeverRefused : contract lawfulHost.inited lawfulHost.input = true := by decide
theorem witness_RunsOfAContractKeepingHostNeverStop : contract (ready blankRow).inited
    (pending (ready blankRow) 0x060000000000000005).input = true := by decide
theorem test_contract_refuses_a_second_init :
    contract true [.command 0x010000000000000000] = false ∧ contract false [.command 0x030000000000000000] = false ∧
    contract true [.command 0x050000000000080001] = false := by decide

end Sys2Proof.Tests
end

section
/-! SUPPORT. What a command does, said once: a command that is not refused has one effect, and which effect it is depends on
`inited` and `BUF` alone. -/

namespace Sys2Proof.Machine

/-- The state INIT leaves (R122, R123, R126). -/
def State.afterInit (s : State) : State :=
  { s with
    dir := ⟨.out, .out, .out⟩
    lvl := idleLines false
    inited := true
    trace := s.trace ++ (configEvents ++ framesEvents initFrames)
    sinkSr := 0x0800
    sinkReg := {
      digit1 := 0, digit2 := 0, digit3 := 0, digit4 := 0, digit5 := 0, digit6 := 0, digit7 := 0, digit8 := 0
      decodeMode := 0, intensity := 1, scanLimit := 7, shutdown := 1, dispTest := 0 } }

/-- The five control frames of INIT, from any state (R123). -/
theorem control_writes_eq (s : State) :
    forEach initControlFrames (fun f => write f.1 f.2) s = .next { s with
      lvl := idleLines false
      trace := s.trace ++ framesEvents [0x0900, 0x0A01, 0x0B07, 0x0C01, 0x0F00]
      sinkSr := 0x0F00
      sinkReg := { s.sinkReg with decodeMode := 0, intensity := 1, scanLimit := 7, shutdown := 1, dispTest := 0 } } := by
  simp only [initControlFrames, forEach_cons, forEach_nil, andThen_next,
    write_eq (show SinkReg.ofAddress 0x09 = some .decodeMode from rfl),
    write_eq (show SinkReg.ofAddress 0x0A = some .intensity from rfl),
    write_eq (show SinkReg.ofAddress 0x0B = some .scanLimit from rfl),
    write_eq (show SinkReg.ofAddress 0x0C = some .shutdown from rfl),
    write_eq (show SinkReg.ofAddress 0x0F = some .dispTest from rfl)]
  simp [SinkRegs.set, framesEvents]

theorem exec_init {s : State} (h : s.inited = false) : exec .init s = .next s.afterInit := by
  simp only [exec, execInit, whenUninitialised_of h, control_writes_eq, clearDigits_eq, andThen_next]
  simp [setInitialised, State.showing, State.afterInit, configureLines, pinCfg, Pins.set, configEvents, initFrames,
    framesEvents, SinkRegs.withDigits, blankRow, idleLines]

theorem exec_clearAll {s : State} (h : s.inited = true) : exec .clearAll s = .next (s.showing blankRow) := by
  simp only [exec, execClearAll, whenInitialised_of h, clearDigits_eq]

theorem exec_flush {s : State} (h : s.inited = true) : exec .flush s = .next (s.showing s.buf) := by
  simp only [exec, execFlush, whenInitialised_of h, flushBuf_eq]

theorem exec_setPixel {row col : Byte} (hr : row.toNat < 8) (hc : col.toNat < 8) (mode : Byte) (s : State) :
    exec (.setPixel row col mode) s = .next (bufWrite ⟨row.toNat, hr⟩
      (editPixel (pixelMode mode) (pixelMask ⟨col.toNat, hc⟩) (bufRead ⟨row.toNat, hr⟩ s)) s) := by
  simp only [exec, execSetPixel, index8_of_lt hr, index8_of_lt hc]

theorem exec_setPixel_outOfRange {row col : Byte} (h : 7 < row.toNat ∨ 7 < col.toNat) (mode : Byte) (s : State) :
    exec (.setPixel row col mode) s = .refused .indexOutOfRange := by
  simp only [exec, execSetPixel]
  split
  · rename_i hr hc
    rcases h with h | h
    · simp [index8_of_ge h] at hr
    · simp [index8_of_ge h] at hc
  · rfl

theorem exec_renderHex {s : State} (h : s.inited = true) (v : RenderValue) (l sl : Bool) :
    exec (.renderHex v l sl) s =
      .next (State.showing (addDots (hexPatterns v) l sl) (bufReplace (addDots (hexPatterns v) l sl) s)) := by
  simp only [exec, execRenderHex, whenInitialised_of h, renderPacked_eq]

theorem exec_renderDec {s : State} (h : s.inited = true) (v : RenderValue) (l sl : Bool) :
    exec (.renderDec v l sl) s = .next (State.showing (addDots (hexPatterns (packBcd v)) l sl)
      (bufReplace (addDots (hexPatterns (packBcd v)) l sl) s)) := by
  simp only [exec, execRenderDec, whenInitialised_of h, renderPacked_eq]

/-- What a command that completes does. -/
inductive CommandEffect where
  /-- INIT's. -/
  | initialise
  /-- The buffer becomes `b` and nothing is sent (IMAGE, SETPIXEL). -/
  | edit (b : Vector Byte 8)
  /-- The buffer becomes `b` and the digit frames of `p` are sent (CLEARALL, FLUSH, the renders). -/
  | display (b p : Vector Byte 8)

/-- The next state an effect gives. -/
def CommandEffect.apply (e : CommandEffect) (s : State) : State :=
  match e with
  | .initialise => s.afterInit
  | .edit b => bufReplace b s
  | .display b p => State.showing p (bufReplace b s)

/-- The pin events an effect appends. -/
def CommandEffect.events : CommandEffect → List PinEvent
  | .initialise => configEvents ++ framesEvents initFrames
  | .edit _ => []
  | .display _ p => framesEvents (digitFrames p)

/-- Which effects an instruction can have, by the value of `inited` before it (R35). -/
def CommandEffect.FitsIn (e : CommandEffect) (i : Instr) (inited : Bool) : Prop :=
  match e with
  | .initialise => i = .init ∧ inited = false
  | .edit _ => i ≠ .init
  | .display _ _ => i ≠ .init ∧ inited = true

theorem CommandEffect.apply_trace (e : CommandEffect) (s : State) : (e.apply s).trace = s.trace ++ e.events := by
  cases e with
  | initialise => rfl
  | edit b => exact (List.append_nil _).symm
  | display b p => rfl

@[simp] theorem CommandEffect.apply_input (e : CommandEffect) (s : State) : (e.apply s).input = s.input := by
  cases e <;> rfl

@[simp] theorem CommandEffect.apply_sinkOther (e : CommandEffect) (s : State) :
    (e.apply s).sinkOther = s.sinkOther := by
  cases e <;> rfl

/-- INIT, and only INIT, makes the block initialised. -/
theorem CommandEffect.apply_inited {e : CommandEffect} {i : Instr} {s : State} (h : e.FitsIn i s.inited) :
    (e.apply s).inited = (s.inited || decide (i = .init)) := by
  cases e with
  | initialise => simp [apply, State.afterInit, h.1]
  | edit b => simp [apply, show i ≠ .init from h]
  | display b p => simp [apply, h.1]

/-- No effect reads the chip: another content of the sink shows in the sink alone. -/
theorem CommandEffect.apply_withSink (e : CommandEffect) (s : State) (sr : Frame) (rs : SinkRegs) :
    ∃ sr' rs', e.apply (s.withSink sr rs) = (e.apply s).withSink sr' rs' := by
  cases e <;> exact ⟨_, _, rfl⟩

/-- No effect reads the treatment `SINK_OTHER`. -/
theorem CommandEffect.apply_with_sinkOther (e : CommandEffect) (s : State) (x : SinkOther) :
    e.apply { s with sinkOther := x } = { e.apply s with sinkOther := x } := by
  cases e <;> rfl

theorem whenInitialised_refused {s : State} {r : Refusal}
    (h : (if s.inited then none else some Refusal.notInitialised) = some r) (k : State → Result) :
    whenInitialised s k = .refused r := by
  cases hi : s.inited with
  | true => simp [hi] at h
  | false =>
    simp only [hi, Bool.false_eq_true, if_false, Option.some.injEq] at h
    rw [whenInitialised_not hi, h]

theorem whenUninitialised_refused {s : State} {r : Refusal}
    (h : (if s.inited then some Refusal.alreadyInitialised else none) = some r) (k : State → Result) :
    whenUninitialised s k = .refused r := by
  cases hi : s.inited with
  | true =>
    simp only [hi, if_true, Option.some.injEq] at h
    rw [whenUninitialised_not hi, h]
  | false => simp [hi] at h

/-- A command refused for a reason (R192, R195). -/
theorem exec_refused_of_stopReason {i : Instr} {s : State} {r : Refusal} (h : stopReason i s = some r) :
    exec i s = .refused r := by
  cases i with
  | init =>
    simp only [exec, execInit]
    exact whenUninitialised_refused h _
  | clearAll => exact whenInitialised_refused h _
  | flush => exact whenInitialised_refused h _
  | setPixel row col mode =>
    simp only [stopReason, Option.ite_none_right_eq_some, Option.some.injEq] at h
    obtain ⟨hrange, rfl⟩ := h
    exact exec_setPixel_outOfRange hrange mode s
  | renderHex v l sl => exact whenInitialised_refused h _
  | renderDec v l sl => exact whenInitialised_refused h _
  | _ => cases h

/-- A command with no reason to refuse it has an effect, the same from every state with its `inited` and `BUF`. -/
theorem exec_command_effect {i : Instr} {s : State} (hc : i.isCommand = true) (h : stopReason i s = none) :
    ∃ e : CommandEffect, e.FitsIn i s.inited ∧
      ∀ s' : State, s'.inited = s.inited → s'.buf = s.buf → exec i s' = .next (e.apply s') := by
  cases i with
  | init =>
    have hi : s.inited = false := by simpa [stopReason] using h
    exact ⟨.initialise, ⟨rfl, hi⟩, fun s' h' _ => exec_init (h'.trans hi)⟩
  | clearAll =>
    have hi : s.inited = true := by simpa [stopReason] using h
    refine ⟨.display s.buf blankRow, ⟨nofun, hi⟩, fun s' h' hb => ?_⟩
    rw [exec_clearAll (h'.trans hi), ← hb]
    rfl
  | flush =>
    have hi : s.inited = true := by simpa [stopReason] using h
    refine ⟨.display s.buf s.buf, ⟨nofun, hi⟩, fun s' h' hb => ?_⟩
    rw [exec_flush (h'.trans hi), ← hb]
    rfl
  | image rows => exact ⟨.edit rows, nofun, fun _ _ _ => rfl⟩
  | setPixel row col mode =>
    simp only [stopReason, ite_eq_right_iff, reduceCtorEq, imp_false, not_or, Nat.not_lt] at h
    obtain ⟨hrow, hcol⟩ := h
    have row_lt := Nat.lt_succ_of_le hrow
    have col_lt := Nat.lt_succ_of_le hcol
    refine ⟨.edit (s.buf.set row.toNat (editPixel (pixelMode mode) (pixelMask ⟨col.toNat, col_lt⟩) s.buf[row.toNat])),
      nofun, fun s' _ hb => ?_⟩
    rw [exec_setPixel row_lt col_lt, ← hb]
    rfl
  | renderHex v l sl =>
    have hi : s.inited = true := by simpa [stopReason] using h
    exact ⟨.display _ _, ⟨nofun, hi⟩, fun s' h' _ => exec_renderHex (h'.trans hi) v l sl⟩
  | renderDec v l sl =>
    have hi : s.inited = true := by simpa [stopReason] using h
    exact ⟨.display _ _, ⟨nofun, hi⟩, fun s' h' _ => exec_renderDec (h'.trans hi) v l sl⟩
  | _ => cases hc

theorem stopReason_eq_none_of_exec_next {i : Instr} {s t : State} (h : exec i s = .next t) :
    stopReason i s = none := by
  cases hr : stopReason i s with
  | none => rfl
  | some r => rw [exec_refused_of_stopReason hr] at h; cases h

theorem stopReason_congr {s s' : State} (h : s'.inited = s.inited) (i : Instr) : stopReason i s' = stopReason i s := by
  cases i <;> simp only [stopReason, h]

/-- A command that completes, and the effect it has from every state with the same `inited` and `BUF`. -/
theorem effect_of_exec_next {i : Instr} {s t : State} (hc : i.isCommand = true) (h : exec i s = .next t) :
    ∃ e : CommandEffect, e.FitsIn i s.inited ∧ t = e.apply s ∧
      ∀ s' : State, s'.inited = s.inited → s'.buf = s.buf → exec i s' = .next (e.apply s') := by
  obtain ⟨e, hfit, he⟩ := exec_command_effect hc (stopReason_eq_none_of_exec_next h)
  have ht : Host.Outcome.next (e.apply s) = .next t := (he s rfl rfl).symm.trans h
  exact ⟨e, hfit, by cases ht; rfl, he⟩

/-- The next state of a command under the other treatment. -/
theorem exec_next_with_sinkOther {i : Instr} {s t : State} (hc : i.isCommand = true) (h : exec i s = .next t)
    (x : SinkOther) : exec i { s with sinkOther := x } = .next { t with sinkOther := x } := by
  obtain ⟨e, -, rfl, he⟩ := effect_of_exec_next hc h
  rw [he { s with sinkOther := x } rfl rfl, e.apply_with_sinkOther]

/-- A command that is refused is refused for the reason `stopReason` gives. -/
theorem stopReason_of_exec_refused {i : Instr} {s : State} {r : Refusal} (hc : i.isCommand = true)
    (h : exec i s = .refused r) : stopReason i s = some r := by
  cases hr : stopReason i s with
  | some r' => rw [exec_refused_of_stopReason hr] at h; cases h; rfl
  | none =>
    obtain ⟨e, -, he⟩ := exec_command_effect hc hr
    rw [he s rfl rfl] at h
    cases h

/-- The refusal of a command under the other treatment. -/
theorem exec_refused_with_sinkOther {i : Instr} {s : State} {r : Refusal} (hc : i.isCommand = true)
    (h : exec i s = .refused r) (x : SinkOther) : exec i { s with sinkOther := x } = .refused r :=
  exec_refused_of_stopReason ((stopReason_congr (s := s) rfl i).trans (stopReason_of_exec_refused hc h))

end Sys2Proof.Machine
end

section
/-! SUPPORT. What a receiver of the lines makes of the events of a bit, a byte, a frame and a command (R170 to R172). -/

namespace Sys2Proof.Machine

@[simp] theorem Receiver.receive_nil (r : Receiver) : r.receive [] = r := rfl

@[simp] theorem Receiver.receive_cons (r : Receiver) (e : PinEvent) (es : List PinEvent) :
    r.receive (e :: es) = (r.observe e).receive es := rfl

@[simp] theorem Receiver.receive_append (r : Receiver) (es fs : List PinEvent) :
    r.receive (es ++ fs) = (r.receive es).receive fs := List.foldl_append

/-- The three events of a bit shift it in, whatever the lines were. -/
theorem Receiver.receive_bitEvents (r : Receiver) (b : Bool) :
    r.receive (bitEvents b) = ⟨⟨.high, .ofBit b, r.lvl.cs⟩, r.sr.shiftConcat b, r.regs⟩ := by
  cases b <;> simp [bitEvents, observe, Pins.set, Pins.get, PinLevel.ofBit]

theorem Receiver.receive_sendEvents (r : Receiver) (b : Byte) :
    r.receive (sendEvents b) = ⟨⟨.high, .ofBit (b.getLsbD 0), r.lvl.cs⟩, frameValue r.sr ++ b, r.regs⟩ := by
  simp only [sendEvents, List.flatMap_cons, List.flatMap_nil, List.append_nil, receive_append, receive_bitEvents,
    shift_byte]

/-- A whole frame to a listed address stores its byte: the receiver's half of `write_eq`. -/
theorem Receiver.receive_frameEvents {a : Byte} {q : SinkReg} (h : SinkReg.ofAddress a = some q) (r : Receiver)
    (v : Byte) : r.receive (frameEvents (a ++ v)) = ⟨idleLines (v.getLsbD 0), a ++ v, r.regs.set q v⟩ := by
  rw [frameEvents_append]
  simp [receive_sendEvents, observe, Pins.set, Pins.get, PinLevel.ofBit, idleLines, h]

theorem Receiver.receive_digitFrames (r : Receiver) (p : Vector Byte 8) :
    r.receive (framesEvents (digitFrames p)) =
      ⟨idleLines (p[7].getLsbD 0), 0x08#8 ++ p[7], r.regs.withDigits p⟩ := by
  simp only [framesEvents, digitFrames, List.flatMap_cons, List.flatMap_nil, List.append_nil, receive_append,
    receive_frameEvents (show SinkReg.ofAddress 0x01#8 = some .digit1 from rfl),
    receive_frameEvents (show SinkReg.ofAddress 0x02#8 = some .digit2 from rfl),
    receive_frameEvents (show SinkReg.ofAddress 0x03#8 = some .digit3 from rfl),
    receive_frameEvents (show SinkReg.ofAddress 0x04#8 = some .digit4 from rfl),
    receive_frameEvents (show SinkReg.ofAddress 0x05#8 = some .digit5 from rfl),
    receive_frameEvents (show SinkReg.ofAddress 0x06#8 = some .digit6 from rfl),
    receive_frameEvents (show SinkReg.ofAddress 0x07#8 = some .digit7 from rfl),
    receive_frameEvents (show SinkReg.ofAddress 0x08#8 = some .digit8 from rfl)]
  rfl

theorem Receiver.receive_controlFrames (r : Receiver) :
    r.receive (framesEvents [0x0900, 0x0A01, 0x0B07, 0x0C01, 0x0F00]) =
      ⟨idleLines false, 0x0F00,
        { r.regs with decodeMode := 0, intensity := 1, scanLimit := 7, shutdown := 1, dispTest := 0 }⟩ := by
  have bytes : ([0x0900, 0x0A01, 0x0B07, 0x0C01, 0x0F00] : List Frame) =
      [0x09#8 ++ 0x00#8, 0x0A#8 ++ 0x01#8, 0x0B#8 ++ 0x07#8, 0x0C#8 ++ 0x01#8, 0x0F#8 ++ 0x00#8] := rfl
  simp only [bytes, framesEvents, List.flatMap_cons, List.flatMap_nil, List.append_nil, receive_append,
    receive_frameEvents (show SinkReg.ofAddress 0x09#8 = some .decodeMode from rfl),
    receive_frameEvents (show SinkReg.ofAddress 0x0A#8 = some .intensity from rfl),
    receive_frameEvents (show SinkReg.ofAddress 0x0B#8 = some .scanLimit from rfl),
    receive_frameEvents (show SinkReg.ofAddress 0x0C#8 = some .shutdown from rfl),
    receive_frameEvents (show SinkReg.ofAddress 0x0F#8 = some .dispTest from rfl)]
  rfl

/-- The events of an effect tell a receiver of the lines all that the effect does to the lines and the sink. -/
theorem CommandEffect.receiver_apply (e : CommandEffect) (s : State) :
    (e.apply s).receiver = s.receiver.receive e.events := by
  cases e with
  | initialise =>
    have frames : framesEvents initFrames =
        framesEvents [0x0900, 0x0A01, 0x0B07, 0x0C01, 0x0F00] ++ framesEvents (digitFrames blankRow) :=
      List.flatMap_append
    simp only [events, frames, configEvents, Receiver.receive_append, Receiver.receive_controlFrames,
      Receiver.receive_digitFrames]
    rfl
  | edit b => rfl
  | display b p =>
    simp only [events, Receiver.receive_digitFrames]
    rfl

theorem CommandEffect.sinkFollowsTrace_apply (e : CommandEffect) {s : State} {sr : Frame} {rs : SinkRegs}
    (h : s.SinkFollowsTrace sr rs) : (e.apply s).SinkFollowsTrace sr rs := by
  unfold State.SinkFollowsTrace at h ⊢
  rw [e.receiver_apply, e.apply_trace, Receiver.receive_append, h]

end Sys2Proof.Machine
end

section
/-! SUPPORT. What a step answers, by the first pending input, and what the host's contract means for it. -/

namespace Sys2Proof.Machine

theorem step_nil {s : State} (h : s.input = []) : step s = .next s := by
  simp only [step, fetch, h]

theorem step_command {s : State} {w : CmdWord} {rest : List Input} {i : Instr} (h : s.input = .command w :: rest)
    (hd : decodeCommand w = .ok i) : step s = exec i { s with input := rest } := by
  simp only [step, fetch, h, hd]

theorem step_command_error {s : State} {w : CmdWord} {rest : List Input} {x : DecodeError}
    (h : s.input = .command w :: rest) (hd : decodeCommand w = .error x) : step s = .refused .illegalOpcode := by
  simp only [step, fetch, h, hd, refuse]

/-- A step of a host that only issues commands is refused over an illegal word or by the command it runs. -/
theorem step_refused_of_hostOnly {s : State} {r : Refusal} (hh : s.HostOnly) (h : step s = .refused r) :
    (∃ w rest x, s.input = .command w :: rest ∧ decodeCommand w = .error x ∧ r = .illegalOpcode) ∨
    (∃ w rest i, s.input = .command w :: rest ∧ decodeCommand w = .ok i ∧
      exec i { s with input := rest } = .refused r) := by
  cases hin : s.input with
  | nil => rw [step_nil hin] at h; cases h
  | cons y rest =>
    cases y with
    | wire e => simp [State.HostOnly, hin, Input.isCommand] at hh
    | command w =>
      cases hd : decodeCommand w with
      | error x =>
        rw [step_command_error hin hd] at h
        cases h
        exact .inl ⟨w, rest, x, rfl, hd, rfl⟩
      | ok i => exact .inr ⟨w, rest, i, rfl, hd, (step_command hin hd).symm.trans h⟩

/-- The contract allows exactly the commands that nothing refuses. -/
theorem allowedIn_iff (i : Instr) (s : State) :
    allowedIn s.inited i = true ↔ i.isCommand = true ∧ stopReason i s = none := by
  cases i <;> simp [allowedIn, Instr.isCommand, stopReason]

/-- One step of a host that keeps the contract (R13, R212). -/
theorem step_of_contract {s : State} (h : contract s.inited s.input = true) :
    ∃ t, step s = .next t ∧ contract t.inited t.input = true ∧ t.input = s.input.tail := by
  cases hin : s.input with
  | nil => exact ⟨s, step_nil hin, h, hin⟩
  | cons x rest =>
    cases x with
    | wire e => simp [hin, contract] at h
    | command w =>
      cases hd : decodeCommand w with
      | error x => simp [hin, contract, hd] at h
      | ok i =>
        simp only [hin, contract, hd, Bool.and_eq_true] at h
        obtain ⟨hallowed, hrest⟩ := h
        obtain ⟨hc, hstop⟩ := (allowedIn_iff i { s with input := rest }).mp hallowed
        obtain ⟨e, hfit, he⟩ := exec_command_effect hc hstop
        refine ⟨e.apply { s with input := rest }, (step_command hin hd).trans (he _ rfl rfl), ?_, e.apply_input _⟩
        rw [e.apply_inited hfit, e.apply_input]
        exact hrest

/-- A run takes its first step, then the rest. -/
theorem run_succ_of_step {s t : State} (h : step s = .next t) (n : Nat) :
    Sys2Proof.core.run (n + 1) s = Sys2Proof.core.run n t := by
  have hstep : Sys2Proof.core.step s = .next t := h
  simp only [Host.Core.run, hstep]

/-- A latched frame is one write to the chip's registers. -/
theorem exec_of_decodeFrame {f : Frame} {i : Instr} (h : decodeFrame f = .ok i) (s : State) :
    ∃ r, exec i s = .next (sinkWrite r (frameValue f) s) := by
  obtain ⟨r, -, hr⟩ := decodeFrame_ok h
  exact ⟨r, (hr s).trans (runFrame_eq r _ s)⟩

end Sys2Proof.Machine
end

section
/-! THEOREMS. The statements of spec/00_scope.md, settled. -/

namespace Sys2Proof.Machine

/-- Settles O46: an effect appends to the trace exactly the events from which a receiver learns the new lines and sink. -/
theorem stepKeepsTheSinkAFunctionOfTheTrace : Obligations.StepKeepsTheSinkAFunctionOfTheTrace := by
  intro sr rs s t hhost hinv hstep
  obtain ⟨-, rfl⟩ | ⟨w, rest, i, -, hd, hexec⟩ := step_cases_of_hostOnly hhost hstep
  · exact hinv
  · obtain ⟨e, -, rfl, -⟩ := effect_of_exec_next (isCommand_of_decodeCommand hd) hexec
    exact e.sinkFollowsTrace_apply hinv

/-- Settles O47: which effect a command has does not depend on the chip, and no effect reads it. -/
theorem chipContentsNeverReachTheBlock : Obligations.ChipContentsNeverReachTheBlock := by
  intro i s t sr rs hc hexec
  obtain ⟨e, -, rfl, he⟩ := effect_of_exec_next hc hexec
  obtain ⟨sr', rs', hsink⟩ := e.apply_withSink s sr rs
  exact ⟨sr', rs', by rw [he (s.withSink sr rs) rfl rfl, hsink]⟩

/-- Settles O48: what the contract allows nothing refuses, and the effect sets `inited` as the contract foresees. -/
theorem hostThatKeepsTheContractIsNeverRefused : Obligations.HostThatKeepsTheContractIsNeverRefused :=
  fun _ h => step_of_contract h

/-- Settles O49, by induction on the number of steps, the contract being the invariant. -/
theorem runsOfAContractKeepingHostNeverStop : Obligations.RunsOfAContractKeepingHostNeverStop := by
  intro n
  induction n with
  | zero => exact fun s _ => ⟨s, rfl⟩
  | succ n ih =>
    intro s h
    obtain ⟨t, hstep, hcontract, -⟩ := step_of_contract h
    rw [run_succ_of_step hstep]
    exact ih t hcontract

/-- Settles O50: the frame goes out as every frame does, and its latch finds no register. -/
theorem writeToUnlistedAddressTakesItsEffect : Obligations.WriteToUnlistedAddressTakesItsEffect := by
  intro a v s ha heffect
  rw [write_latches, sinkLatch_unlisted (by simpa using ha), frameEvents_append]
  exact latchUnlisted_effect heffect

/-- Settles O51: `CS` rises over a frame that addresses no register. -/
theorem latchOfUnlistedFrameTakesItsEffect : Obligations.LatchOfUnlistedFrameTakesItsEffect := by
  intro s e hcs herror heffect
  have hrise : isRisingEdge .cs true s = true := by simp [isRisingEdge, lineLevel, Pins.get, hcs]
  have hunlisted : SinkReg.ofAddress (frameAddress (drive .cs true s).sinkSr) = none := decodeFrame_error herror
  simp only [pinSet, hrise, if_true, sinkLatch_unlisted hunlisted]
  exact latchUnlisted_effect heffect

/-- Settles O53, by the kinds of step: idle, a command, a latched frame, another wire event. -/
theorem noStepChangesTheSinkTreatment : Obligations.NoStepChangesTheSinkTreatment := by
  intro s t hstep
  obtain ⟨-, rfl⟩ | ⟨w, rest, i, -, hd, hexec⟩ | ⟨e, rest, i, -, -, hd, hexec⟩ | ⟨e, rest, -, -, hevent⟩ :=
    step_cases hstep
  · rfl
  · obtain ⟨e, -, rfl, -⟩ := effect_of_exec_next (isCommand_of_decodeCommand hd) hexec
    exact e.apply_sinkOther _
  · obtain ⟨r, hwrite⟩ := exec_of_decodeFrame hd (drive .cs true { s with input := rest })
    cases hwrite.symm.trans hexec
    rfl
  · obtain ⟨-, -, hother, -⟩ := pinEvent_cases hevent
    exact hother

/-- Settles O54: neither the effect nor the refusal of a command depends on the treatment. -/
theorem sinkTreatmentNeverReachesACommand : Obligations.SinkTreatmentNeverReachesACommand := by
  intro s x hhost
  constructor
  · intro t hstep
    obtain ⟨hin, rfl⟩ | ⟨w, rest, i, hin, hd, hexec⟩ := step_cases_of_hostOnly hhost hstep
    · exact step_nil hin
    · exact (step_command (s := { s with sinkOther := x }) hin hd).trans
        (exec_next_with_sinkOther (isCommand_of_decodeCommand hd) hexec x)
  · intro r hstep
    obtain ⟨w, rest, e, hin, hd, rfl⟩ | ⟨w, rest, i, hin, hd, hexec⟩ := step_refused_of_hostOnly hhost hstep
    · exact step_command_error hin hd
    · exact (step_command (s := { s with sinkOther := x }) hin hd).trans
        (exec_refused_with_sinkOther (isCommand_of_decodeCommand hd) hexec x)

/-- Settles O35: the fetch hands the decoded command to `exec`. -/
theorem stepRunsTheDecodedCommand : Obligations.StepRunsTheDecodedCommand :=
  fun _ _ _ _ hin hd => step_command hin hd

end Sys2Proof.Machine
end

section
/-! SUPPORT. What an instruction and a pin event do to the directions of the lines, to `inited` and to `BUF`. -/

namespace Sys2Proof.Machine

/-- Configuring a line as an output takes no output away (R31). -/
theorem Pins.get_set_out_of_out {dirs : Pins Direction} {q : Pin} (h : dirs.get q = .out) (p : Pin) :
    (dirs.set p .out).get q = .out := by
  by_cases hq : q = p
  · subst hq
    exact Pins.get_set_same dirs q .out
  · exact (Pins.get_set_other dirs .out hq).trans h

/-- A set-level leaves the directions, whatever the sink makes of the edge. -/
theorem pinSet_dir {p : Pin} {l : Bool} {s t : State} (h : pinSet p l s = .next t) : t.dir = s.dir := by
  cases p with
  | clk =>
    simp only [pinSet] at h
    split at h <;> (cases h; rfl)
  | din => cases h; rfl
  | cs =>
    simp only [pinSet] at h
    split at h
    · obtain ⟨regs, rfl⟩ := sinkLatch_cases h
      rfl
    · cases h; rfl

theorem pinEvent_keeps_outputs {e : PinEvent} {s t : State} (h : pinEvent e s = .next t) {q : Pin}
    (hq : s.dir.get q = .out) : t.dir.get q = .out := by
  cases e with
  | cfgOut p => cases h; exact Pins.get_set_out_of_out hq p
  | set p l => rw [pinSet_dir h]; exact hq

theorem CommandEffect.apply_keeps_outputs (e : CommandEffect) (s : State) {q : Pin} (hq : s.dir.get q = .out) :
    (e.apply s).dir.get q = .out := by
  cases e with
  | initialise => cases q <;> rfl
  | edit b => exact hq
  | display b p => exact hq

/-- INIT's effect is the only one that configures lines or sets `inited`. -/
theorem CommandEffect.apply_dir_inited {e : CommandEffect} {i : Instr} {s : State} (h : e.FitsIn i s.inited)
    (hi : i ≠ .init) : (e.apply s).dir = s.dir ∧ (e.apply s).inited = s.inited := by
  cases e with
  | initialise => exact absurd h.1 hi
  | edit b => exact ⟨rfl, rfl⟩
  | display b p => exact ⟨rfl, rfl⟩

/-- The lines rest after every effect: INIT configures them, an edit leaves them, and a display, which only an initialised
block has, ends with `CS` and `CLK` high (R126). -/
theorem CommandEffect.linesAtRest_apply {e : CommandEffect} {i : Instr} {s : State} (h : e.FitsIn i s.inited)
    (hs : s.LinesAtRest) : (e.apply s).LinesAtRest := by
  cases e with
  | initialise => exact ⟨rfl, false, rfl⟩
  | edit b => exact hs
  | display b p =>
    obtain ⟨-, hinited⟩ := h
    simp only [State.LinesAtRest, hinited, if_true] at hs
    obtain ⟨hdir, -⟩ := hs
    simp only [State.LinesAtRest, apply, State.showing_inited, bufReplace_inited, hinited, if_true]
    exact ⟨hdir, p[7].getLsbD 0, rfl⟩

/-- Every wire frame, run as an instruction, is one write to the chip's registers (R173 to R178). -/
theorem exec_frame {i : Instr} (h : i.isCommand = false) (s : State) :
    ∃ r v, exec i s = .next (sinkWrite r v s) := by
  cases i with
  | init | clearAll | flush | image | setPixel | renderHex | renderDec => cases h
  | _ v => exact ⟨_, v, rfl⟩

/-- The commands that may not write `BUF` are INIT, CLEARALL and FLUSH (R23), and they leave it. -/
theorem exec_command_buf {i : Instr} {s t : State} (hc : i.isCommand = true) (hw : mayWriteBuf i = false)
    (h : exec i s = .next t) : t.buf = s.buf := by
  have hstop := stopReason_eq_none_of_exec_next h
  cases i with
  | init =>
    have hi : s.inited = false := by simpa [stopReason] using hstop
    cases (exec_init hi).symm.trans h
    rfl
  | clearAll =>
    have hi : s.inited = true := by simpa [stopReason] using hstop
    cases (exec_clearAll hi).symm.trans h
    rfl
  | flush =>
    have hi : s.inited = true := by simpa [stopReason] using hstop
    cases (exec_flush hi).symm.trans h
    rfl
  | image | setPixel | renderHex | renderDec => cases hw
  | _ => cases hc

end Sys2Proof.Machine
end

section
/-! THEOREMS. The statements of spec/10_state.md, settled. -/

namespace Sys2Proof.Machine

/-- Settles O44: an idle step changes nothing, and every effect of a command leaves the lines at rest. -/
theorem stepKeepsTheLinesAtRest : Obligations.StepKeepsTheLinesAtRest := by
  intro s t hhost hrest hstep
  obtain ⟨-, rfl⟩ | ⟨w, rest, i, -, hd, hexec⟩ := step_cases_of_hostOnly hhost hstep
  · exact hrest
  · obtain ⟨e, hfit, rfl, -⟩ := effect_of_exec_next (isCommand_of_decodeCommand hd) hexec
    exact CommandEffect.linesAtRest_apply hfit hrest

/-- Settles O39, by the kinds of step: idle, a command, a latched frame, another wire event. -/
theorem stepsOnlyAppendToTheTraceAndKeepInited : Obligations.StepsOnlyAppendToTheTraceAndKeepInited := by
  intro s t hstep
  obtain ⟨hin, rfl⟩ | ⟨w, rest, i, hin, hd, hexec⟩ | ⟨e, rest, i, hin, -, hd, hexec⟩ | ⟨e, rest, hin, -, hevent⟩ :=
    step_cases hstep
  · exact ⟨⟨[], (List.append_nil _).symm⟩, id, fun _ => id, by simp only [hin, List.tail_nil]⟩
  · obtain ⟨e, hfit, rfl, -⟩ := effect_of_exec_next (isCommand_of_decodeCommand hd) hexec
    refine ⟨⟨e.events, e.apply_trace _⟩, fun hinited => ?_, fun p =>
      e.apply_keeps_outputs { s with input := rest }, ?_⟩
    · rw [CommandEffect.apply_inited hfit]
      simp only [hinited, Bool.true_or]
    · simp only [e.apply_input, hin, List.tail_cons]
  · obtain ⟨r, hwrite⟩ := exec_of_decodeFrame hd (drive .cs true { s with input := rest })
    cases hwrite.symm.trans hexec
    exact ⟨⟨[.set .cs true], rfl⟩, id, fun _ => id, by simp only [sinkWrite_input, drive_input, hin, List.tail_cons]⟩
  · obtain ⟨-, hinited, -, hinput, htrace⟩ := pinEvent_cases hevent
    exact ⟨⟨[e], htrace⟩, hinited.trans, fun _ => pinEvent_keeps_outputs hevent,
      by simp only [hinput, hin, List.tail_cons]⟩

/-- Settles O40: a frame writes the chip's registers only, and a command does what its effect does. -/
theorem onlyImagePixelAndRendersWriteTheBuffer : Obligations.OnlyImagePixelAndRendersWriteTheBuffer := by
  intro i s t hexec
  cases hc : i.isCommand with
  | true =>
    obtain ⟨e, hfit, rfl, -⟩ := effect_of_exec_next hc hexec
    exact ⟨fun hw => exec_command_buf hc hw hexec, CommandEffect.apply_dir_inited hfit⟩
  | false =>
    obtain ⟨r, v, hwrite⟩ := exec_frame hc s
    cases hwrite.symm.trans hexec
    exact ⟨fun _ => rfl, fun _ => ⟨rfl, rfl⟩⟩

/-- Settles O41: `State.resetWith` is the record R41 describes, and `State.reset` is it at zeros. -/
theorem resetStateHoldsTheStatedValues : Obligations.ResetStateHoldsTheStatedValues :=
  ⟨fun _ _ _ _ => rfl, _, _, _, rfl⟩

/-- Settles O42: before INIT each invariant asks only for an empty trace or untouched lines, a receiver of no events is as
launched, and nothing is pending. -/
theorem invariantsHoldAtReset : Obligations.InvariantsHoldAtReset := by
  intro b sr rs o
  have hinited : (State.resetWith b sr rs o).inited = false := rfl
  refine ⟨.inl ⟨hinited, rfl⟩, ?lines, ?controls, Receiver.receive_nil _, List.all_nil⟩
  case lines =>
    simp only [State.LinesAtRest, hinited, Bool.false_eq_true, if_false]
    exact ⟨rfl, rfl⟩
  case controls =>
    intro h
    rw [hinited] at h
    cases h

end Sys2Proof.Machine
end

section
/-! SUPPORT. How an effect extends the whole-frames trace, and what the writes of a FLUSH leave, index by index. -/

namespace Sys2Proof.Machine

theorem framesEvents_append (fs gs : List Frame) : framesEvents (fs ++ gs) = framesEvents fs ++ framesEvents gs :=
  List.flatMap_append

/-- The trace stays one of whole frames under every effect: INIT, which only an empty trace meets, starts it with no group
of digit frames, an edit sends nothing, and a display, which only an initialised block has, adds its own group. -/
theorem CommandEffect.traceOfWholeFrames_apply {e : CommandEffect} {i : Instr} {s : State} (h : e.FitsIn i s.inited)
    (hs : s.TraceOfWholeFrames) : (e.apply s).TraceOfWholeFrames := by
  obtain ⟨hinited, htrace⟩ | ⟨hinited, ps, htrace⟩ := hs
  · cases e with
    | initialise =>
      refine .inr ⟨rfl, [], ?_⟩
      rw [apply_trace, htrace, List.flatMap_nil, List.append_nil]
      rfl
    | edit b => exact .inl ⟨hinited, htrace⟩
    | display b p => cases hinited.symm.trans h.2
  · cases e with
    | initialise => cases hinited.symm.trans h.2
    | edit b => exact .inr ⟨hinited, ps, htrace⟩
    | display b p =>
      refine .inr ⟨hinited, ps ++ [p], ?_⟩
      rw [apply_trace, htrace]
      simp only [events, List.flatMap_append, List.flatMap_singleton, framesEvents_append, List.append_assoc]

/-- The address `i + 1` that FLUSH sends `BUF[i]` to is that of the digit register showing index `i` (R22). -/
theorem ofAddress_index_succ (i : Fin 8) : SinkReg.ofAddress (BitVec.ofNat 8 (i.val + 1)) = some (digitOf i) := by
  decide +revert

theorem digitOf_injective : Function.Injective digitOf := by
  decide

/-- FLUSH's writes over any list of indices: the digits listed show the buffer, the rest keep their patterns, and the
buffer stays, so that every write sends what the buffer held at the start. -/
theorem flush_writes_digits (is : List (Fin 8)) (s : State) : ∃ t,
    forEach is (fun i s => write (BitVec.ofNat 8 (i.val + 1)) (bufRead i s) s) s = .next t ∧ t.buf = s.buf ∧
    ∀ j, t.sinkReg.get (digitOf j) = if j ∈ is then s.buf[j] else s.sinkReg.get (digitOf j) := by
  induction is generalizing s with
  | nil => exact ⟨s, rfl, rfl, fun j => (if_neg List.not_mem_nil).symm⟩
  | cons i is ih =>
    rw [forEach_cons, write_eq (ofAddress_index_succ i), andThen_next]
    obtain ⟨t, hrun, hbuf, hdigits⟩ := ih _
    refine ⟨t, hrun, hbuf, fun j => ?_⟩
    rw [hdigits j]
    by_cases hj : j = i
    · subst hj
      simp [bufRead]
    · simp [hj, SinkRegs.get_set_other _ _ (digitOf_injective.ne hj)]

/-- The first `n` indices are those below `n`. -/
theorem mem_take_indices_iff {n : Nat} (h : n ≤ 8) (i : Fin 8) :
    i ∈ ([0, 1, 2, 3, 4, 5, 6, 7] : List (Fin 8)).take n ↔ i.val < n := by
  interval_cases n <;> decide +revert

end Sys2Proof.Machine
end

section
/-! THEOREMS. The statements of spec/20_memory.md, settled. -/

namespace Sys2Proof.Machine

/-- Settles O43: the pending inputs are those left after the one taken, and every effect keeps the trace one of whole
frames. -/
theorem stepKeepsTheTraceOfWholeFrames : Obligations.StepKeepsTheTraceOfWholeFrames := by
  intro s t hhost htrace hstep
  obtain ⟨-, rfl⟩ | ⟨w, rest, i, hin, hd, hexec⟩ := step_cases_of_hostOnly hhost hstep
  · exact ⟨hhost, htrace⟩
  · obtain ⟨e, hfit, rfl, -⟩ := effect_of_exec_next (isCommand_of_decodeCommand hd) hexec
    refine ⟨?_, CommandEffect.traceOfWholeFrames_apply hfit htrace⟩
    rw [State.HostOnly, hin, List.all_cons, Bool.and_eq_true] at hhost
    obtain ⟨-, hrest⟩ := hhost
    rw [State.HostOnly, e.apply_input]
    exact hrest

/-- Settles O16: the writes of the first `n` indices, by what FLUSH's writes leave for any list of indices. -/
theorem flushUpdatesTheDigitsOneAfterAnother : Obligations.FlushUpdatesTheDigitsOneAfterAnother := by
  intro n s hn
  obtain ⟨t, hrun, hbuf, hdigits⟩ := flush_writes_digits (List.take n [0, 1, 2, 3, 4, 5, 6, 7]) s
  refine ⟨t, hrun, hbuf, fun i => ?_⟩
  rw [hdigits i]
  exact if_congr (mem_take_indices_iff hn i) rfl rfl

end Sys2Proof.Machine
end

section
/-! SUPPORT. What the decoders answer, by the opcode or the address byte, and what the fields of an encoded word
read back. -/

namespace Sys2Proof.Machine

/-- The opcode is bits 71:64 as a number (R86). -/
theorem opcodeOf_eq_ofNat (w : CmdWord) : opcodeOf w = BitVec.ofNat 8 (w.toNat / 2 ^ 64) := by
  rw [← Nat.shiftRight_eq_div_pow]
  rfl

theorem opcodeOf_eq_of_div {w : CmdWord} {n : Nat} (h : w.toNat / 2 ^ 64 = n) : opcodeOf w = BitVec.ofNat 8 n := by
  rw [opcodeOf_eq_ofNat, h]

theorem opcodeOf_toNat (w : CmdWord) : (opcodeOf w).toNat = w.toNat / 2 ^ 64 := by
  rw [opcodeOf_eq_ofNat, BitVec.toNat_ofNat]
  omega

theorem frameAddress_toNat (f : Frame) : (frameAddress f).toNat = f.toNat / 2 ^ 8 := by
  rw [frameAddress, byteOf, BitVec.extractLsb'_toNat, Nat.shiftRight_eq_div_pow]
  omega

/-! The seven commands by their opcodes (R91), and every other opcode (R92). -/

theorem decodeCommand_init {w : CmdWord} (h : opcodeOf w = 0x01#8) : decodeCommand w = .ok .init := by
  simp only [decodeCommand, h]

theorem decodeCommand_clearAll {w : CmdWord} (h : opcodeOf w = 0x02#8) : decodeCommand w = .ok .clearAll := by
  simp only [decodeCommand, h]

theorem decodeCommand_flush {w : CmdWord} (h : opcodeOf w = 0x03#8) : decodeCommand w = .ok .flush := by
  simp only [decodeCommand, h]

theorem decodeCommand_image {w : CmdWord} (h : opcodeOf w = 0x04#8) : decodeCommand w = .ok (.image (rowsOf w)) := by
  simp only [decodeCommand, h]

theorem decodeCommand_setPixel {w : CmdWord} (h : opcodeOf w = 0x05#8) :
    decodeCommand w = .ok (.setPixel (byteOf w 16) (byteOf w 8) (byteOf w 0)) := by
  simp only [decodeCommand, h]

theorem decodeCommand_renderHex {w : CmdWord} (h : opcodeOf w = 0x06#8) :
    decodeCommand w = .ok (.renderHex (valueOf w) (w.getLsbD 32) (w.getLsbD 33)) := by
  simp only [decodeCommand, h]

theorem decodeCommand_renderDec {w : CmdWord} (h : opcodeOf w = 0x07#8) :
    decodeCommand w = .ok (.renderDec (valueOf w) (w.getLsbD 32) (w.getLsbD 33)) := by
  simp only [decodeCommand, h]

theorem decodeCommand_illegal {w : CmdWord} (h : w.toNat / 2 ^ 64 = 0 ∨ 8 ≤ w.toNat / 2 ^ 64) :
    decodeCommand w = .error (.illegalOpcode (opcodeOf w)) := by
  rw [← opcodeOf_toNat] at h
  unfold decodeCommand
  split
  case h_8 => rfl
  all_goals
    next hop =>
      rw [hop] at h
      exact absurd h (by decide)

theorem decodeCommand_legal {w : CmdWord} (h : 1 ≤ w.toNat / 2 ^ 64 ∧ w.toNat / 2 ^ 64 ≤ 7) :
    ∃ i, decodeCommand w = .ok i := by
  obtain h | h | h | h | h | h | h : w.toNat / 2 ^ 64 = 1 ∨ w.toNat / 2 ^ 64 = 2 ∨ w.toNat / 2 ^ 64 = 3 ∨
      w.toNat / 2 ^ 64 = 4 ∨ w.toNat / 2 ^ 64 = 5 ∨ w.toNat / 2 ^ 64 = 6 ∨ w.toNat / 2 ^ 64 = 7 := by omega
  · exact ⟨_, decodeCommand_init (opcodeOf_eq_of_div h)⟩
  · exact ⟨_, decodeCommand_clearAll (opcodeOf_eq_of_div h)⟩
  · exact ⟨_, decodeCommand_flush (opcodeOf_eq_of_div h)⟩
  · exact ⟨_, decodeCommand_image (opcodeOf_eq_of_div h)⟩
  · exact ⟨_, decodeCommand_setPixel (opcodeOf_eq_of_div h)⟩
  · exact ⟨_, decodeCommand_renderHex (opcodeOf_eq_of_div h)⟩
  · exact ⟨_, decodeCommand_renderDec (opcodeOf_eq_of_div h)⟩

/-! The fields of an encoded word (R88 to R90). -/

theorem byteOf_append_right {n : Nat} (x : BitVec n) (b : Byte) : byteOf (x ++ b) 0 = b :=
  BitVec.extractLsb'_append_eq_right

/-- Above its lowest byte a word holds what stands before that byte. -/
theorem byteOf_append_left {n lo : Nat} (x : BitVec n) (b : Byte) : byteOf (x ++ b) (lo + 8) = byteOf x lo :=
  BitVec.extractLsb'_append_eq_of_le (Nat.le_add_left 8 lo)

theorem rowsOf_encodeI (op : Byte) (rows : Vector Byte 8) : rowsOf (encodeI op rows) = rows := by
  apply Vector.ext
  intro i hi
  simp only [rowsOf, encodeI, byteOf_append_right, byteOf_append_left (lo := 0), byteOf_append_left (lo := 8),
    byteOf_append_left (lo := 16), byteOf_append_left (lo := 24), byteOf_append_left (lo := 32),
    byteOf_append_left (lo := 40), byteOf_append_left (lo := 48)]
  interval_cases i <;> rfl

theorem byteOf_encodeP_mode (op row col mode : Byte) : byteOf (encodeP op row col mode) 0 = mode :=
  byteOf_append_right _ mode

theorem byteOf_encodeP_col (op row col mode : Byte) : byteOf (encodeP op row col mode) 8 = col :=
  (byteOf_append_left _ mode).trans (byteOf_append_right _ col)

theorem byteOf_encodeP_row (op row col mode : Byte) : byteOf (encodeP op row col mode) 16 = row :=
  (byteOf_append_left _ mode).trans ((byteOf_append_left _ col).trans (byteOf_append_right _ row))

theorem valueOf_encodeR (op : Byte) (value : RenderValue) (l sl : Bool) : valueOf (encodeR op value l sl) = value :=
  BitVec.extractLsb'_append_eq_right

theorem getLsbD_encodeR_dotLast (op : Byte) (value : RenderValue) (l sl : Bool) :
    (encodeR op value l sl).getLsbD 32 = l := by
  simp only [encodeR, BitVec.getLsbD_append]
  simp

theorem getLsbD_encodeR_dotSecondLast (op : Byte) (value : RenderValue) (l sl : Bool) :
    (encodeR op value l sl).getLsbD 33 = sl := by
  simp only [encodeR, BitVec.getLsbD_append]
  simp

/-! Words that agree in their low bits read alike there. -/

theorem setWidth_eq_of_mod {n k : Nat} {w w' : BitVec n} (h : w.toNat % 2 ^ k = w'.toNat % 2 ^ k) :
    w.setWidth k = w'.setWidth k :=
  BitVec.eq_of_toNat_eq (by rw [BitVec.toNat_setWidth, BitVec.toNat_setWidth, h])

theorem extractLsb'_congr {n k lo len : Nat} {w w' : BitVec n} (h : w.setWidth k = w'.setWidth k)
    (hle : lo + len ≤ k) : w.extractLsb' lo len = w'.extractLsb' lo len := by
  rw [← BitVec.extractLsb'_setWidth_of_le hle, h, BitVec.extractLsb'_setWidth_of_le hle]

theorem getLsbD_congr {n k i : Nat} {w w' : BitVec n} (h : w.setWidth k = w'.setWidth k) (hi : i < k) :
    w.getLsbD i = w'.getLsbD i := by
  have hbit := congrArg (BitVec.getLsbD · i) h
  simpa [hi] using hbit

/-! The frames. -/

theorem encodeFrame_of_frameAddress {f : Frame} {a : Byte} (h : frameAddress f = a) :
    encodeFrame a (frameValue f) = f := by
  rw [← h]
  exact (frame_eq_append f).symm

/-- The listed address bytes are 0x01 to 0x0C and 0x0F (R83, R85). -/
theorem exists_ofAddress_iff (a : Byte) :
    (∃ r, SinkReg.ofAddress a = some r) ↔ (1 ≤ a.toNat ∧ a.toNat ≤ 12) ∨ a.toNat = 15 := by
  constructor
  · rintro ⟨r, h⟩
    rw [SinkReg.address_of_ofAddress h]
    cases r <;> decide
  · intro h
    obtain ⟨n, ha⟩ : ∃ n, a.toNat = n := ⟨_, rfl⟩
    obtain rfl : a = BitVec.ofNat 8 n := by rw [← ha, BitVec.ofNat_toNat, BitVec.setWidth_eq]
    rw [ha] at h
    obtain ⟨hlow, hhigh⟩ | rfl := h
    · interval_cases n <;> exact ⟨_, rfl⟩
    · exact ⟨_, rfl⟩

theorem decodeFrame_isOk_iff (f : Frame) :
    (∃ i, decodeFrame f = .ok i) ↔ ∃ r, SinkReg.ofAddress (frameAddress f) = some r := by
  constructor
  · rintro ⟨i, hok⟩
    obtain ⟨r, haddr, -⟩ := decodeFrame_ok hok
    exact ⟨r, haddr⟩
  · rintro ⟨r, haddr⟩
    cases hd : decodeFrame f with
    | ok i => exact ⟨i, rfl⟩
    | error e => cases (decodeFrame_error hd).symm.trans haddr

end Sys2Proof.Machine
end

section
/-! THEOREMS. The statements of spec/30_encoding.md, settled. -/

namespace Sys2Proof.Machine

open Laws.EncodeFitsRow (opcodeOf_append opcodeOf_encodeI opcodeOf_encodeP opcodeOf_encodeR)

/-- Settles O29: a command word has its instruction's opcode and its fields read back the operands; a frame reads back
its two bytes. -/
theorem decodeInvertsEncode : Obligations.DecodeInvertsEncode := by
  intro i
  cases i with
  | init => exact decodeCommand_init (opcodeOf_append 0x01#8 0#64)
  | clearAll => exact decodeCommand_clearAll (opcodeOf_append 0x02#8 0#64)
  | flush => exact decodeCommand_flush (opcodeOf_append 0x03#8 0#64)
  | image rows =>
    refine (decodeCommand_image (opcodeOf_encodeI _ rows)).trans ?_
    rw [rowsOf_encodeI]
  | setPixel row col mode =>
    refine (decodeCommand_setPixel (opcodeOf_encodeP _ row col mode)).trans ?_
    rw [byteOf_encodeP_row, byteOf_encodeP_col, byteOf_encodeP_mode]
  | renderHex value l sl =>
    refine (decodeCommand_renderHex (opcodeOf_encodeR _ value l sl)).trans ?_
    rw [valueOf_encodeR, getLsbD_encodeR_dotLast, getLsbD_encodeR_dotSecondLast]
  | renderDec value l sl =>
    refine (decodeCommand_renderDec (opcodeOf_encodeR _ value l sl)).trans ?_
    rw [valueOf_encodeR, getLsbD_encodeR_dotLast, getLsbD_encodeR_dotSecondLast]
  | _ v => simp only [encode, decode, encodeFrame, decodeFrame, frameAddress_append, frameValue_append]

/-- Settles O30: whichever address byte the frame has, it is that byte above its value byte. -/
theorem frameDecodingLosesNoBit : Obligations.FrameDecodingLosesNoBit := by
  intro f i h
  unfold decodeFrame at h
  split at h <;> cases h
  all_goals exact congrArg Encoded.frame (encodeFrame_of_frameAddress ‹_›)

/-- Settles O31: the bits a decoded command reads lie below the ones the format ignores. -/
theorem ignoredBitsChangeNothing : Obligations.IgnoredBitsChangeNothing := by
  intro w w' hop
  have hop' {n : Nat} (h : w.toNat / 2 ^ 64 = n) : opcodeOf w' = BitVec.ofNat 8 n :=
    opcodeOf_eq_of_div (hop.symm.trans h)
  refine ⟨fun h => ?noOperands, fun h hlow => ?setPixel, fun h hlow => ?render⟩
  case noOperands =>
    simp only [List.mem_cons, List.not_mem_nil, or_false] at h
    obtain h | h | h := h
    · rw [decodeCommand_init (opcodeOf_eq_of_div h), decodeCommand_init (hop' h)]
    · rw [decodeCommand_clearAll (opcodeOf_eq_of_div h), decodeCommand_clearAll (hop' h)]
    · rw [decodeCommand_flush (opcodeOf_eq_of_div h), decodeCommand_flush (hop' h)]
  case setPixel =>
    have hagree := setWidth_eq_of_mod hlow
    have hbyte {lo : Nat} (hle : lo + 8 ≤ 24) : byteOf w lo = byteOf w' lo := extractLsb'_congr hagree hle
    rw [decodeCommand_setPixel (opcodeOf_eq_of_div h), decodeCommand_setPixel (hop' h),
      hbyte (lo := 16) (by decide), hbyte (lo := 8) (by decide), hbyte (lo := 0) (by decide)]
  case render =>
    have hagree := setWidth_eq_of_mod hlow
    have hvalue : valueOf w = valueOf w' := extractLsb'_congr hagree (by decide)
    have hlast : w.getLsbD 32 = w'.getLsbD 32 := getLsbD_congr hagree (by decide)
    have hsecond : w.getLsbD 33 = w'.getLsbD 33 := getLsbD_congr hagree (by decide)
    simp only [List.mem_cons, List.not_mem_nil, or_false] at h
    obtain h | h := h
    · rw [decodeCommand_renderHex (opcodeOf_eq_of_div h), decodeCommand_renderHex (hop' h), hvalue, hlast,
        hsecond]
    · rw [decodeCommand_renderDec (opcodeOf_eq_of_div h), decodeCommand_renderDec (hop' h), hvalue, hlast,
        hsecond]

/-- Settles O32: opcodes 1 to 7 decode, and the others, whose error excludes any instruction, do not. -/
theorem commandWordsDecodeExactlyForOpcodesOneToSeven :
    Obligations.CommandWordsDecodeExactlyForOpcodesOneToSeven := by
  intro w
  refine ⟨⟨?_, decodeCommand_legal⟩, fun h => ?_⟩
  · rintro ⟨i, hok⟩
    by_contra hout
    cases (decodeCommand_illegal (w := w) (by omega)).symm.trans hok
  · rw [decodeCommand_illegal h, opcodeOf_eq_ofNat]

/-- Settles O33: a frame decodes when its address byte selects a register, and thirteen bytes do. -/
theorem framesDecodeExactlyForListedAddresses : Obligations.FramesDecodeExactlyForListedAddresses := by
  intro f
  rw [decodeFrame_isOk_iff, exists_ofAddress_iff, frameAddress_toNat]

/-- Settles O34, by running the decoder on the nine words. -/
theorem sampleWordsDecodeAsTheSpecWritesThem : Obligations.SampleWordsDecodeAsTheSpecWritesThem := by
  unfold Obligations.SampleWordsDecodeAsTheSpecWritesThem
  decide

/-- Settles O37: the fetch rejects what the decoder does. -/
theorem stepRefusesAnIllegalWord : Obligations.StepRefusesAnIllegalWord :=
  fun _ _ _ hin h => step_command_error hin (decodeCommand_illegal h)

end Sys2Proof.Machine
end

section
/-! SUPPORT. What a receiver reads off the 24 events of a byte, and the byte's bits by mask and by position
(spec/40_bit_transport.md R110, R112, spec/44_sink_registers.md R171). -/

namespace Sys2Proof.Machine

/-- Whatever level `CLK` had, the three events of a bit give one rising edge and leave `CLK` high. -/
@[simp] theorem risingEdges_clk_bitEvents_append (l : PinLevel) (b : Bool) (es : List PinEvent) :
    risingEdges .clk l (bitEvents b ++ es) = risingEdges .clk .high es + 1 := by
  simp [bitEvents, risingEdges, PinLevel.ofBit, Nat.add_comm]

/-- Whatever the lines were, the edge of a bit's three events reads that bit. -/
@[simp] theorem sampledBits_bitEvents_append (c d : PinLevel) (b : Bool) (es : List PinEvent) :
    sampledBits c d (bitEvents b ++ es) = .ofBit b :: sampledBits .high (.ofBit b) es := by
  simp [bitEvents, sampledBits, PinLevel.ofBit]

theorem risingEdges_clk_flatMap_bitEvents {α : Type} (bit : α → Bool) (xs : List α) (l : PinLevel) :
    risingEdges .clk l (xs.flatMap fun x => bitEvents (bit x)) = xs.length := by
  induction xs generalizing l with
  | nil => rfl
  | cons x xs ih => simp [ih]

theorem sampledBits_flatMap_bitEvents {α : Type} (bit : α → Bool) (xs : List α) (c d : PinLevel) :
    sampledBits c d (xs.flatMap fun x => bitEvents (bit x)) = xs.map fun x => .ofBit (bit x) := by
  induction xs generalizing c d with
  | nil => rfl
  | cons x xs ih => simp [ih]

/-- The source's mask reads one bit: shifted left by `k`, bit 7 holds bit `7 - k`. -/
theorem decide_shiftLeft_and_0x80 (b : Byte) {k : Nat} (hk : k ≤ 7) :
    decide ((b <<< k) &&& 0x80#8 ≠ 0) = b.getLsbD (7 - k) := by
  have hmask : (b <<< k) &&& 0x80#8 = if b.getLsbD (7 - k) then 0x80#8 else 0 := by
    rw [show (0x80#8) = BitVec.twoPow 8 7 from rfl, BitVec.and_twoPow, BitVec.getLsbD_shiftLeft]
    simp [Nat.not_lt.mpr hk]
  rw [hmask]
  cases b.getLsbD (7 - k) <;> rfl

/-- Putting a byte below the low byte of a frame is a shift by 8 and an OR. -/
theorem frameValue_append_eq_shiftLeft_or (f : Frame) (b : Byte) :
    frameValue f ++ b = (f <<< 8) ||| b.setWidth 16 := by
  apply BitVec.eq_of_getLsbD_eq
  intro i hi
  simp only [frameValue, byteOf, BitVec.getLsbD_append, BitVec.getLsbD_extractLsb', BitVec.getLsbD_or,
    BitVec.getLsbD_shiftLeft, BitVec.getLsbD_setWidth]
  by_cases hlow : i < 8
  · simp [hlow, hi]
  · have hshifted : i - 8 < 8 := by omega
    simp [hlow, hi, hshifted, BitVec.getLsbD_of_ge b i (by omega)]

end Sys2Proof.Machine
end

section
/-! THEOREMS. The statements of spec/40_bit_transport.md, settled. -/

namespace Sys2Proof.Machine

/-- Settles O1: the next state is the one `send_eq` names, whose shift register is left open here. -/
theorem sendDrivesClockLowDataClockHighMsbFirst : Obligations.SendDrivesClockLowDataClockHighMsbFirst :=
  fun b s => ⟨_, send_eq b s, rfl⟩

/-- Settles O2: each of the eight bits from bit 7 down gives one edge, which reads that bit; bit `7 - k` is the one the
mask picks. -/
theorem sendPulsesTheClockEightTimesOverItsBits : Obligations.SendPulsesTheClockEightTimesOverItsBits := by
  intro b s
  refine ⟨_, sendEvents b, send_eq b s, rfl, risingEdges_clk_flatMap_bitEvents .., ?_⟩
  calc sampledBits s.lvl.clk s.lvl.din (sendEvents b)
      = [7, 6, 5, 4, 3, 2, 1, 0].map fun j => .ofBit (b.getLsbD j) := sampledBits_flatMap_bitEvents ..
    _ = (List.range 8).map fun k => .ofBit (b.getLsbD (7 - k)) := rfl
    _ = (List.range 8).map fun k => .ofBit (decide ((b <<< k) &&& 0x80#8 ≠ 0)) :=
        List.map_congr_left fun k hk => by
          rw [decide_shiftLeft_and_0x80 b (Nat.le_of_lt_succ (List.mem_range.mp hk))]

/-- Settles O3: the byte stands below the old low byte. -/
theorem sendLeavesItsByteInTheShiftRegister : Obligations.SendLeavesItsByteInTheShiftRegister :=
  fun b s => ⟨_, send_eq b s, frameValue_append_eq_shiftLeft_or s.sinkSr b⟩

end Sys2Proof.Machine
end

section
/-! SUPPORT. The counts of a frame's events, the frames of eight blanks and of INIT written out, and the control
registers under every effect (spec/41_register_protocol.md R121 to R127). -/

namespace Sys2Proof.Machine

/-- The three events of a bit leave `CS` alone. -/
@[simp] theorem risingEdges_cs_bitEvents_append (l : PinLevel) (b : Bool) (es : List PinEvent) :
    risingEdges .cs l (bitEvents b ++ es) = risingEdges .cs l es := by
  simp [bitEvents, risingEdges]

@[simp] theorem length_bitEvents (b : Bool) : (bitEvents b).length = 3 := rfl

theorem length_frameEvents (f : Frame) : (frameEvents f).length = 50 := by
  simp [frameEvents]

/-- Whatever level `CLK` had, a frame clocks its 16 bits and leaves `CLK` high. -/
theorem risingEdges_clk_frameEvents_append (l : PinLevel) (f : Frame) (es : List PinEvent) :
    risingEdges .clk l (frameEvents f ++ es) = risingEdges .clk .high es + 16 := by
  simp [frameEvents, risingEdges]

/-- Whatever level `CS` had, a frame drives it low, then high once, and leaves it high. -/
theorem risingEdges_cs_frameEvents_append (l : PinLevel) (f : Frame) (es : List PinEvent) :
    risingEdges .cs l (frameEvents f ++ es) = risingEdges .cs .high es + 1 := by
  simp [frameEvents, risingEdges, PinLevel.ofBit, Nat.add_comm]

/-- Every frame counts 50 events, 16 edges of `CLK` and one of `CS`, from any levels (R127). -/
theorem framesEvents_counts (fs : List Frame) (c k : PinLevel) :
    ((framesEvents fs).length, risingEdges .clk c (framesEvents fs), risingEdges .cs k (framesEvents fs)) =
      (50 * fs.length, 16 * fs.length, fs.length) := by
  induction fs generalizing c k with
  | nil => rfl
  | cons f fs ih =>
    simp only [Prod.mk.injEq] at ih
    obtain ⟨hlen, hclk, hcs⟩ := ih .high .high
    have hcons : framesEvents (f :: fs) = frameEvents f ++ framesEvents fs := rfl
    simp only [hcons, List.length_append, length_frameEvents, risingEdges_clk_frameEvents_append,
      risingEdges_cs_frameEvents_append, hlen, hclk, hcs, List.length_cons, Nat.mul_succ, Nat.add_comm 50]

/-- The counts of a row of digit frames, as R127 lists them for CLEARALL, FLUSH and the renders. -/
theorem digitFrames_counts (p : Vector Byte 8) (c k : PinLevel) :
    ((framesEvents (digitFrames p)).length, risingEdges .clk c (framesEvents (digitFrames p)),
      risingEdges .cs k (framesEvents (digitFrames p))) = (400, 128, 8) :=
  framesEvents_counts (digitFrames p) c k

/-- INIT's three configurations count as events and hold no edge. -/
theorem configEvents_append_counts (es : List PinEvent) (c k : PinLevel) :
    ((configEvents ++ es).length, risingEdges .clk c (configEvents ++ es), risingEdges .cs k (configEvents ++ es)) =
      Prod.map (· + 3) id (es.length, risingEdges .clk c es, risingEdges .cs k es) := rfl

theorem digitFrames_blankRow :
    digitFrames blankRow = [0x0100, 0x0200, 0x0300, 0x0400, 0x0500, 0x0600, 0x0700, 0x0800] := rfl

theorem initFrames_eq : initFrames =
    [0x0900, 0x0A01, 0x0B07, 0x0C01, 0x0F00, 0x0100, 0x0200, 0x0300, 0x0400, 0x0500, 0x0600, 0x0700, 0x0800] := rfl

/-- The control registers stay INIT's under every effect: INIT writes them, an edit leaves the chip, and a display,
which only an initialised block has, writes digits only. -/
theorem CommandEffect.controlsAsInit_apply {e : CommandEffect} {i : Instr} {s : State} (h : e.FitsIn i s.inited)
    (hs : s.ControlsAsInit) : (e.apply s).ControlsAsInit := by
  cases e with
  | initialise => exact fun _ => ⟨rfl, rfl, rfl, rfl, rfl⟩
  | edit b => exact hs
  | display b p => exact fun _ => hs h.2

end Sys2Proof.Machine
end

section
/-! THEOREMS. The statements of spec/41_register_protocol.md, settled. -/

namespace Sys2Proof.Machine

/-- Settles O45: an idle step changes nothing, and every effect of a command leaves the control registers as INIT set
them. -/
theorem stepKeepsTheControlRegistersOfInit : Obligations.StepKeepsTheControlRegistersOfInit := by
  intro s t hhost hcontrols hstep
  obtain ⟨-, rfl⟩ | ⟨w, rest, i, -, hd, hexec⟩ := step_cases_of_hostOnly hhost hstep
  · exact hcontrols
  · obtain ⟨e, hfit, rfl, -⟩ := effect_of_exec_next (isCommand_of_decodeCommand hd) hexec
    exact CommandEffect.controlsAsInit_apply hfit hcontrols

/-- Settles O4: the events are those of one frame, whose edges are counted from any levels. -/
theorem writeAssertsChipSelectOnceAroundTwoSends : Obligations.WriteAssertsChipSelectOnceAroundTwoSends := by
  intro a v r s ha
  refine ⟨_, frameEvents (a ++ v), write_eq ha v s, rfl, frameEvents_append a v, length_frameEvents _, ?_, ?_,
    rfl, rfl, rfl⟩
  · simpa [risingEdges] using risingEdges_clk_frameEvents_append s.lvl.clk (a ++ v) []
  · simpa [risingEdges] using risingEdges_cs_frameEvents_append s.lvl.cs (a ++ v) []

/-- Settles O5: the next state is the one `write_eq` names, read register by register. -/
theorem writeLatchesItsValueAndNothingElse : Obligations.WriteLatchesItsValueAndNothingElse := by
  intro a v r s ha
  exact ⟨_, write_eq ha v s, rfl, SinkRegs.get_set_same s.sinkReg r v,
    fun _ hq => SinkRegs.get_set_other s.sinkReg v hq, rfl, rfl, rfl, rfl, rfl⟩

/-- Settles O13: INIT leaves the state `afterInit`, with its frames written out. -/
theorem initConfiguresAndProgramsTheChip : Obligations.InitConfiguresAndProgramsTheChip := by
  intro s hinited
  rw [exec_init hinited, State.afterInit, initFrames_eq, ← List.append_assoc]
  rfl

/-- Settles O14: CLEARALL shows eight blanks, whose frames are written out. -/
theorem clearAllZeroesTheDigitsInOrder : Obligations.ClearAllZeroesTheDigitsInOrder := by
  intro s hinited
  rw [exec_clearAll hinited, State.showing, digitFrames_blankRow]
  rfl

/-- Settles O15: FLUSH shows the buffer. -/
theorem flushSendsEveryBufferByteInOrder : Obligations.FlushSendsEveryBufferByteInOrder :=
  fun _ hinited => exec_flush hinited

/-- Settles O26: INIT sends thirteen frames after its configurations, a display sends eight, and an edit and a frame
instruction send nothing. -/
theorem everyCommandAppendsItsEventCount : Obligations.EveryCommandAppendsItsEventCount := by
  intro i s hstop
  cases i with
  | init =>
    have hi : s.inited = false := by simpa [stopReason] using hstop
    have hframes := framesEvents_counts initFrames s.lvl.clk s.lvl.cs
    exact ⟨_, _, exec_init hi, rfl,
      (configEvents_append_counts _ _ _).trans (congrArg (Prod.map (· + 3) id) hframes)⟩
  | clearAll =>
    have hi : s.inited = true := by simpa [stopReason] using hstop
    exact ⟨_, _, exec_clearAll hi, rfl, digitFrames_counts ..⟩
  | flush =>
    have hi : s.inited = true := by simpa [stopReason] using hstop
    exact ⟨_, _, exec_flush hi, rfl, digitFrames_counts ..⟩
  | renderHex v l sl =>
    have hi : s.inited = true := by simpa [stopReason] using hstop
    exact ⟨_, _, exec_renderHex hi v l sl, rfl, digitFrames_counts ..⟩
  | renderDec v l sl =>
    have hi : s.inited = true := by simpa [stopReason] using hstop
    exact ⟨_, _, exec_renderDec hi v l sl, rfl, digitFrames_counts ..⟩
  | image rows => exact ⟨_, [], rfl, (List.append_nil _).symm, rfl⟩
  | setPixel row col mode =>
    simp only [stopReason, ite_eq_right_iff, reduceCtorEq, imp_false, not_or, Nat.not_lt] at hstop
    obtain ⟨hrow, hcol⟩ := hstop
    exact ⟨_, [], exec_setPixel (Nat.lt_succ_of_le hrow) (Nat.lt_succ_of_le hcol) mode s, (List.append_nil _).symm, rfl⟩
  | _ v => exact ⟨_, [], rfl, (List.append_nil _).symm, rfl⟩

end Sys2Proof.Machine
end

section
/-! SUPPORT. What SETPIXEL does to each bit of `BUF` (R141, R142): the mode acts on the one bit
the mask has, and the other 63 stay. -/

namespace Sys2Proof.Machine

/-- What a mode makes of the targeted bit (R141). -/
def PixelMode.onBit : PixelMode → Bool → Bool
  | .clear, _ => false
  | .set, _ => true
  | .toggle, b => !b

theorem pixelMode_eq_toggle {mode : Byte} (h0 : mode ≠ 0x00) (h1 : mode ≠ 0x01) : pixelMode mode = .toggle := by
  unfold pixelMode
  split
  · exact absurd rfl h0
  · exact absurd rfl h1
  · rfl

theorem onBit_pixelMode (mode : Byte) (b : Bool) :
    (pixelMode mode).onBit b = if mode = 0x00 then false else if mode = 0x01 then true else !b := by
  split
  next h0 => subst h0; rfl
  next h0 =>
    split
    next h1 => subst h1; rfl
    next h1 => rw [pixelMode_eq_toggle h0 h1]; rfl

/-- The mask of column `c` is bit `7 - c` alone (R142). -/
theorem getLsbD_pixelMask : ∀ c j : Fin 8, (pixelMask c).getLsbD j.val = decide (j.val = 7 - c.val) := by decide

/-- The mode acts on the bits the mask has, the others stay (R141). -/
theorem getLsbD_editPixel (m : PixelMode) (mask old : Byte) (j : Fin 8) :
    (editPixel m mask old).getLsbD j.val =
      if mask.getLsbD j.val = true then m.onBit (old.getLsbD j.val) else old.getLsbD j.val := by
  cases m with
  | clear =>
    simp only [editPixel, PixelMode.onBit, BitVec.getLsbD_and, BitVec.getLsbD_not, j.isLt, decide_true, Bool.true_and]
    cases mask.getLsbD j.val <;> simp
  | set =>
    simp only [editPixel, PixelMode.onBit, BitVec.getLsbD_or]
    cases mask.getLsbD j.val <;> simp
  | toggle =>
    simp only [editPixel, PixelMode.onBit, BitVec.getLsbD_xor]
    cases mask.getLsbD j.val <;> simp

theorem editPixel_toggle_toggle (mask old : Byte) : editPixel .toggle mask (editPixel .toggle mask old) = old := by
  simp only [editPixel, BitVec.xor_assoc, BitVec.xor_self, BitVec.xor_zero]

theorem bufWrite_bufWrite_same (i : Fin 8) (v w : Byte) (s : State) :
    bufWrite i w (bufWrite i v s) = bufWrite i w s := by
  simp only [bufWrite, Vector.set_set]

theorem bufWrite_bufRead (i : Fin 8) (s : State) : bufWrite i (bufRead i s) s = s := by
  simp only [bufWrite, bufRead, Fin.getElem_fin, Vector.set_getElem_self]

/-- The buffer bits after a SETPIXEL, all 64 of them. -/
theorem getLsbD_bufWrite_editPixel (m : PixelMode) (r c : Fin 8) (s : State) (i j : Fin 8) :
    (bufRead i (bufWrite r (editPixel m (pixelMask c) (bufRead r s)) s)).getLsbD j.val =
      if i.val = r.val ∧ j.val = 7 - c.val then m.onBit ((bufRead i s).getLsbD j.val)
      else (bufRead i s).getLsbD j.val := by
  by_cases hir : i = r
  · subst hir
    simp only [bufRead_bufWrite_same, getLsbD_editPixel, getLsbD_pixelMask, decide_eq_true_eq, true_and]
  · rw [bufRead_bufWrite_other _ s hir, if_neg fun h => hir (Fin.ext h.1)]

/-- A toggling SETPIXEL undoes itself (R143 (a)). -/
theorem exec_setPixel_toggle_toggle {row col mode : Byte} (hrow : row.toNat < 8) (hcol : col.toNat < 8)
    (h0 : mode ≠ 0x00) (h1 : mode ≠ 0x01) (s : State) :
    ∃ t, exec (.setPixel row col mode) s = .next t ∧ exec (.setPixel row col mode) t = .next s := by
  refine ⟨_, exec_setPixel hrow hcol mode s, ?_⟩
  rw [exec_setPixel hrow hcol, pixelMode_eq_toggle h0 h1, bufRead_bufWrite_same, editPixel_toggle_toggle,
    bufWrite_bufWrite_same, bufWrite_bufRead]

end Sys2Proof.Machine
end

section
/-! THEOREMS. The statements of spec/42_display_buffer.md, settled. -/

namespace Sys2Proof.Machine

/-- Settles O18: the bits of the buffer SETPIXEL writes, with the mode read as its effect on one bit. -/
theorem setPixelEditsExactlyOneBit : Obligations.SetPixelEditsExactlyOneBit := by
  intro row col mode s hrow hcol
  refine ⟨_, exec_setPixel (Nat.lt_succ_of_le hrow) (Nat.lt_succ_of_le hcol) mode s, rfl, fun i j => ?_⟩
  rw [← onBit_pixelMode]
  exact getLsbD_bufWrite_editPixel (pixelMode mode) _ _ s i j

/-- Settles O19: a toggle undoes itself, and set then clear is the one-bit edit of O18 twice. -/
theorem pixelToggleAndSetClearLaws : Obligations.PixelToggleAndSetClearLaws := by
  intro row col mode s hrow hcol
  refine ⟨fun h0 h1 =>
    exec_setPixel_toggle_toggle (Nat.lt_succ_of_le hrow) (Nat.lt_succ_of_le hcol) h0 h1 s, ?_⟩
  obtain ⟨t, hset, ht, set_bits⟩ := setPixelEditsExactlyOneBit row col 0x01 s hrow hcol
  obtain ⟨u, hclear, hu, clear_bits⟩ := setPixelEditsExactlyOneBit row col 0x00 t hrow hcol
  refine ⟨t, u, hset, hclear, hu.trans (by rw [ht]), fun i j => ?_⟩
  rw [clear_bits, set_bits]
  split
  · rfl
  · rfl

/-- Settles O17: IMAGE replaces the buffer (R140). -/
theorem imageReplacesTheWholeBuffer : Obligations.ImageReplacesTheWholeBuffer :=
  fun rows s => ⟨bufReplace rows s, rfl, fun _ => rfl, rfl⟩

end Sys2Proof.Machine
end

section
/-! SUPPORT. What the renderer shows, in arithmetic (R150 to R153): nibble `k` of a value is its hexadecimal digit `k`, and
a leading zero is a position above the value's last digit. -/

namespace Sys2Proof.Machine

theorem nib_eq_ofNat (v : RenderValue) (k : Nat) : nib v k = BitVec.ofNat 4 (v.toNat / 16 ^ k) := by
  rw [show 16 ^ k = 2 ^ (4 * k) from (Nat.pow_mul 2 4 k).symm, ← Nat.shiftRight_eq_div_pow]
  rfl

/-- Something from nibble `k` up is non-zero exactly when the value reaches `16 ^ k` (R152). -/
theorem shiftRight_ne_zero_iff (v : RenderValue) (k : Nat) : v >>> (4 * k) ≠ 0 ↔ 16 ^ k ≤ v.toNat := by
  rw [ne_eq, ← BitVec.toNat_inj, BitVec.toNat_ushiftRight, Nat.shiftRight_eq_div_pow, Nat.pow_mul]
  simp [Nat.div_eq_zero_iff]

theorem patternAt_eq (v : RenderValue) (k : Nat) :
    patternAt v k = if k = 0 ∨ 16 ^ k ≤ v.toNat then Config.glyph (BitVec.ofNat 4 (v.toNat / 16 ^ k)) else 0x00 := by
  simp only [patternAt, shiftRight_ne_zero_iff, nib_eq_ofNat, glyph, blank]

theorem getElem_hexPatterns (v : RenderValue) (i : Fin 8) : (hexPatterns v)[i] = patternAt v (7 - i.val) := by
  fin_cases i <;> rfl

theorem addDot_eq_or (dot : Bool) (p : Byte) : addDot dot p = p ||| if dot = true then 0x01 else 0x00 := by
  cases dot
  · exact BitVec.or_zero.symm
  · rfl

/-- The dots go to index 7 and index 6, each by its own flag (R153). -/
theorem getElem_addDots (p : Vector Byte 8) (l sl : Bool) (i : Fin 8) :
    (addDots p l sl)[i] =
      p[i] ||| if (i.val = 7 ∧ l = true) ∨ (i.val = 6 ∧ sl = true) then 0x01 else 0x00 := by
  simp only [addDots, Fin.getElem_fin, Vector.getElem_set, addDot_eq_or]
  rcases eq_or_ne i.val 6 with h6 | h6
  · simp [h6]
  · rcases eq_or_ne i.val 7 with h7 | h7
    · simp [h7]
    · simp [h6, h7, Ne.symm h6, Ne.symm h7]

/-- What a render of a packed value shows at each index (R152, R153). -/
theorem getElem_rendered (v : RenderValue) (l sl : Bool) (i : Fin 8) :
    (addDots (hexPatterns v) l sl)[i] =
      (if i.val = 7 ∨ 16 ^ (7 - i.val) ≤ v.toNat
        then Config.glyph (BitVec.ofNat 4 (v.toNat / 16 ^ (7 - i.val))) else 0x00) |||
      (if (i.val = 7 ∧ l = true) ∨ (i.val = 6 ∧ sl = true) then 0x01 else 0x00) := by
  have hlast : 7 - i.val = 0 ↔ i.val = 7 := by omega
  rw [getElem_addDots, getElem_hexPatterns, patternAt_eq]
  simp only [hlast]

end Sys2Proof.Machine
end

section
/-! SUPPORT. Packed BCD (R155): `pack_bcd(value)` is the number whose hexadecimal digits are the decimal digits of
`value mod 10^8`. -/

namespace Sys2Proof.Machine

/-- The number whose hexadecimal digits are the decimal digits of `n`. -/
def bcd (n : Nat) : Nat := Nat.ofDigits 16 (Nat.digits 10 n)

@[simp] theorem bcd_zero : bcd 0 = 0 := by simp [bcd]

theorem bcd_eq_mod_add (n : Nat) : bcd n = n % 10 + 16 * bcd (n / 10) := by
  rcases Nat.eq_zero_or_pos n with rfl | hn
  · simp
  · rw [bcd, Nat.digits_def' (by norm_num) hn, Nat.ofDigits_cons, bcd]

/-- Packing `n + 1` digits is packing the lowest one and then `n` above it. -/
theorem bcd_mod_pow_succ (x n : Nat) : bcd (x % 10 ^ (n + 1)) = x % 10 + 16 * bcd (x / 10 % 10 ^ n) := by
  rw [bcd_eq_mod_add, Nat.pow_succ', Nat.mod_mul_right_div_self, Nat.mod_mul_right_mod]

theorem digits_bcd (n : Nat) : Nat.digits 16 (bcd n) = Nat.digits 10 n := by
  refine Nat.digits_ofDigits 16 (by norm_num) _ (fun d hd => ?_) fun hne => ?_
  · exact (Nat.digits_lt_base (by norm_num) hd).trans (by norm_num)
  · exact Nat.getLast_digit_ne_zero 10 (Nat.digits_ne_nil_iff_ne_zero.mp hne)

theorem bcd_div_pow_mod (n k : Nat) : bcd n / 16 ^ k % 16 = n / 10 ^ k % 10 := by
  rw [← Nat.getD_digits _ _ (by norm_num), digits_bcd, Nat.getD_digits _ _ (by norm_num)]

theorem pow_le_bcd_iff (n k : Nat) : 16 ^ k ≤ bcd n ↔ 10 ^ k ≤ n := by
  rw [← Nat.lt_digits_length_iff (by norm_num), digits_bcd, Nat.lt_digits_length_iff (by norm_num)]

/-- A decimal digit put in nibble `k` above a value that ends below it: the OR is a sum. -/
theorem toNat_or_digit_shiftLeft {acc d : RenderValue} {k : Nat} (hk : k < 8) (hd : d.toNat < 10)
    (hacc : acc.toNat < 16 ^ k) : (acc ||| (d <<< (4 * k))).toNat = acc.toNat + 16 ^ k * d.toNat := by
  have hpow : 16 ^ k = 2 ^ (4 * k) := (Nat.pow_mul 2 4 k).symm
  have hfits : 2 ^ (4 * k) * d.toNat < 2 ^ 32 := by
    have : 2 ^ (4 * k) ≤ 2 ^ 28 := Nat.pow_le_pow_right (by norm_num) (by omega)
    nlinarith
  rw [hpow] at hacc ⊢
  rw [BitVec.toNat_or, BitVec.toNat_shiftLeft, Nat.shiftLeft_eq, Nat.mul_comm, Nat.mod_eq_of_lt hfits,
    Nat.or_comm, ← Nat.two_pow_add_eq_or_of_lt hacc, Nat.add_comm]

/-- From digit 8 on nothing is packed (R155, R157). -/
theorem packBcdLoop_of_eight_le (fuel : Nat) {k : Nat} (hk : 8 ≤ k) (w acc : RenderValue) :
    packBcdLoop fuel k w acc = acc := by
  induction fuel generalizing k w with
  | zero => rfl
  | succ fuel ih => rw [packBcdLoop, if_neg (Nat.not_lt.mpr hk), ih (Nat.le_succ_of_le hk), ite_self]

/-- The loop at digit `k` still has to pack the `n` lowest decimal digits of the value it is at, above the accumulator. -/
theorem toNat_packBcdLoop (fuel : Nat) {n k : Nat} (hn : k + n = 8) {w acc : RenderValue} (hw : w.toNat < 10 ^ fuel)
    (hacc : acc.toNat < 16 ^ k) :
    (packBcdLoop fuel k w acc).toNat = acc.toNat + 16 ^ k * bcd (w.toNat % 10 ^ n) := by
  induction fuel generalizing n k w acc with
  | zero => simp [packBcdLoop, Nat.lt_one_iff.mp hw]
  | succ fuel ih =>
    rw [packBcdLoop]
    split
    next hzero => simp [hzero]
    next =>
      cases n with
      | zero => simp [packBcdLoop_of_eight_le fuel (show 8 ≤ k + 1 by omega), show ¬ k < 8 by omega, Nat.mod_one]
      | succ n =>
        have hdigit : (w % 10).toNat = w.toNat % 10 := BitVec.toNat_umod
        have hrest : (w / 10).toNat = w.toNat / 10 := BitVec.toNat_udiv
        have hor := toNat_or_digit_shiftLeft (show k < 8 by omega) (show (w % 10).toNat < 10 by omega) hacc
        have hacc' : (acc ||| ((w % 10) <<< (4 * k))).toNat < 16 ^ (k + 1) := by
          rw [hor, Nat.pow_succ]
          nlinarith [show (w % 10).toNat ≤ 9 by omega]
        rw [if_pos (by omega), ih (n := n) (by omega) (by omega) hacc', hor, hdigit, hrest, bcd_mod_pow_succ]
        ring

/-- `pack_bcd` packs the decimal digits of its value modulo `10^8` (R155, R157). -/
theorem toNat_packBcd (v : RenderValue) : (packBcd v).toNat = bcd (v.toNat % 10 ^ 8) := by
  have hv : v.toNat < 10 ^ 10 := v.isLt.trans (by norm_num)
  rw [packBcd, toNat_packBcdLoop 10 (Nat.zero_add 8) hv (by decide)]
  exact (Nat.zero_add _).trans (Nat.one_mul _)

theorem packBcd_div_pow_mod (v : RenderValue) (k : Nat) :
    (packBcd v).toNat / 16 ^ k % 16 = v.toNat % 10 ^ 8 / 10 ^ k % 10 := by
  rw [toNat_packBcd, bcd_div_pow_mod]

/-- The low eight decimal digits of a number are those of the number modulo `10^8`. -/
theorem mod_tenPowEight_div_pow_mod (v : Nat) {k : Nat} (hk : k < 8) : v % 10 ^ 8 / 10 ^ k % 10 = v / 10 ^ k % 10 := by
  rw [show 8 = k + (7 - k + 1) by omega, Nat.pow_add, Nat.mod_mul_right_div_self, Nat.pow_succ]
  exact Nat.mod_mod_of_dvd _ (Dvd.intro_left _ rfl)

theorem mod_pow_eq_sum_digits (b x n : Nat) :
    x % b ^ n = ((List.range n).map fun k => x / b ^ k % b * b ^ k).sum := by
  induction n with
  | zero => simp [Nat.mod_one]
  | succ n ih => rw [Nat.mod_pow_succ, ih, List.range_succ]; simp [Nat.mul_comm]

end Sys2Proof.Machine
end

section
/-! THEOREMS. The statements of spec/43_renderer.md, settled. -/

namespace Sys2Proof.Machine

/-- Settles O20: the patterns of the value with their dots, index by index. -/
theorem renderHexShowsTheNibblesOfItsValue : Obligations.RenderHexShowsTheNibblesOfItsValue :=
  fun v l sl _ h => ⟨addDots (hexPatterns v) l sl, exec_renderHex h v l sl, getElem_rendered v l sl⟩

/-- Settles O21: the patterns of the packed value, whose hexadecimal digits are the decimal digits shown. -/
theorem renderDecShowsTheDecimalDigits : Obligations.RenderDecShowsTheDecimalDigits := by
  intro v l sl s h
  refine ⟨addDots (hexPatterns (packBcd v)) l sl, exec_renderDec h v l sl, fun i => ?_⟩
  have hglyph : BitVec.ofNat 4 ((packBcd v).toNat / 16 ^ (7 - i.val)) =
      BitVec.ofNat 4 (v.toNat % 10 ^ 8 / 10 ^ (7 - i.val) % 10) := by
    rw [← packBcd_div_pow_mod]
    exact BitVec.eq_of_toNat_eq (Nat.mod_mod _ _).symm
  rw [getElem_rendered, hglyph]
  simp only [toNat_packBcd, pow_le_bcd_iff]

/-- Settles O23: the packed value is the sum of its own nibbles, and those are the decimal digits. -/
theorem packBcdIsTheSumOfShiftedDecimalDigits : Obligations.PackBcdIsTheSumOfShiftedDecimalDigits := by
  intro v
  have hnibble : ∀ k < 8, (packBcd v).toNat / 16 ^ k % 16 = v.toNat / 10 ^ k % 10 := fun k hk =>
    (packBcd_div_pow_mod v k).trans (mod_tenPowEight_div_pow_mod v.toNat hk)
  constructor
  · calc (packBcd v).toNat
      _ = (packBcd v).toNat % 16 ^ 8 := (Nat.mod_eq_of_lt (packBcd v).isLt).symm
      _ = ((List.range 8).map fun k => (packBcd v).toNat / 16 ^ k % 16 * 16 ^ k).sum := mod_pow_eq_sum_digits 16 _ 8
      _ = ((List.range 8).map fun k => v.toNat / 10 ^ k % 10 * 16 ^ k).sum :=
        congrArg List.sum (List.map_congr_left fun k hk => by rw [hnibble k (List.mem_range.mp hk)])
  · intro k hk
    rw [hnibble k hk]
    omega

/-- Settles O22: nothing is packed of 0, so every position but the last is a leading zero. -/
theorem renderDecOfZeroShowsOneGlyph : Obligations.RenderDecOfZeroShowsOneGlyph :=
  ⟨rfl, fun _ h => ⟨_, exec_renderDec h 0 false false, rfl⟩⟩

end Sys2Proof.Machine
end

section
/-! SUPPORT. What a set-level answers, by the level of its line; what the latch answers, by the decoder; and what no
command is refused for (R170 to R172, R180). -/

namespace Sys2Proof.Machine

/-- The sink sees the level driven last on a line (R32). -/
theorem lineLevel_of_lvl {p : Pin} {b : Bool} {s : State} (h : s.lvl.get p = .ofBit b) : lineLevel p s = b := by
  cases b <;> simp only [lineLevel, h, PinLevel.ofBit]

theorem isRisingEdge_of_low {p : Pin} {s : State} (h : s.lvl.get p = .low) : isRisingEdge p true s = true := by
  simp only [isRisingEdge, lineLevel_of_lvl (b := false) h, Bool.not_false, Bool.and_true]

theorem not_isRisingEdge_of_high {p : Pin} {s : State} (h : s.lvl.get p = .high) (l : Bool) :
    isRisingEdge p l s = false := by
  simp only [isRisingEdge, lineLevel_of_lvl (b := true) h, Bool.not_true, Bool.and_false]

theorem not_isRisingEdge_false (p : Pin) (s : State) : isRisingEdge p false s = false := rfl

/-- Without a rising edge a set-level is the block's half of it alone (R170). -/
theorem pinSet_of_not_rising {p : Pin} {l : Bool} {s : State} (h : isRisingEdge p l s = false) :
    pinSet p l s = .next (drive p l s) := by
  cases p with
  | clk | cs => simp only [pinSet, h, Bool.false_eq_true, if_false]
  | din => rfl

theorem pinSet_clk_of_rising {l : Bool} {s : State} (h : isRisingEdge .clk l s = true) :
    pinSet .clk l s = .next (sinkShift (drive .clk l s)) := by
  simp only [pinSet, h, if_true]

theorem pinSet_cs_of_rising {l : Bool} {s : State} (h : isRisingEdge .cs l s = true) :
    pinSet .cs l s = sinkLatch (drive .cs l s) := by
  simp only [pinSet, h, if_true]

theorem Pins.set_get {α : Type} (ps : Pins α) (p : Pin) : ps.set p (ps.get p) = ps := by
  cases p <;> rfl

/-- Driving the level a line already has is only an event (R32, D22). -/
theorem drive_of_lvl {p : Pin} {l : Bool} {s : State} (h : s.lvl.get p = .ofBit l) :
    drive p l s = { s with trace := s.trace ++ [.set p l] } := by
  simp only [drive, ← h, Pins.set_get]

/-- A line driven high again is only an event (R170). -/
theorem pinSet_of_high {p : Pin} {s : State} (h : s.lvl.get p = .high) :
    pinSet p true s = .next { s with trace := s.trace ++ [.set p true] } := by
  rw [pinSet_of_not_rising (not_isRisingEdge_of_high h true), drive_of_lvl h]

/-- The bit a shift takes in is the level driven last on `DIN` (R171). -/
theorem sinkShift_of_din {d : Bool} {s : State} (h : s.lvl.din = .ofBit d) :
    sinkShift s = { s with sinkSr := (s.sinkSr <<< 1) ||| (if d then 1#16 else 0#16) } := by
  have hbit : (BitVec.ofBool d).setWidth 16 = if d then 1#16 else 0#16 := by cases d <;> rfl
  simp only [sinkShift, lineLevel_of_lvl (p := .din) h, hbit]

/-- The latch's address map and the frame decoder give a frame the same meaning (R172). -/
theorem sinkLatch_of_decodeFrame {s : State} {i : Instr} (h : decodeFrame s.sinkSr = .ok i) :
    sinkLatch s = exec i s := by
  obtain ⟨r, haddress, hexec⟩ := decodeFrame_ok h
  rw [hexec, runFrame_eq, sinkLatch_eq haddress]

theorem pinSet_cs_of_decodeFrame {s : State} {i : Instr} (hrise : isRisingEdge .cs true s = true)
    (hd : decodeFrame s.sinkSr = .ok i) : pinSet .cs true s = exec i (drive .cs true s) :=
  (pinSet_cs_of_rising hrise).trans (sinkLatch_of_decodeFrame hd)

/-- Only a rising edge of `CS` closes a frame (R172). -/
theorem eq_set_cs_of_closesFrame {e : PinEvent} {s : State} (h : closesFrame e s = true) :
    e = .set .cs true ∧ isRisingEdge .cs true s = true := by
  cases e with
  | cfgOut p => cases h
  | set p l =>
    cases p with
    | clk | din => cases h
    | cs =>
      cases l with
      | false => cases h
      | true => exact ⟨rfl, h⟩

/-- No command is refused for an address of the sink (R180). -/
theorem stopReason_ne_unlistedSinkAddress (i : Instr) (s : State) : stopReason i s ≠ some .unlistedSinkAddress := by
  cases i with
  | init | clearAll | flush | renderHex | renderDec | setPixel => simp only [stopReason]; split <;> nofun
  | _ => nofun

end Sys2Proof.Machine
end

section
/-! THEOREMS. The statements of spec/44_sink_registers.md, settled. -/

namespace Sys2Proof.Machine

/-- Settles O6: the frame goes out as every frame does, its latch finds no register, and the treatment refuses it. -/
theorem writeToUnlistedAddressIsRefused : Obligations.WriteToUnlistedAddressIsRefused := by
  intro a v s ha hrefuse
  rw [write_latches, sinkLatch_unlisted (by simpa using ha)]
  exact latchUnlisted_refuse hrefuse

/-- Settles O7: `CLK` at 0 rises and the sink shifts; `CLK` at 1 stays as it is. -/
theorem clockRisingEdgeShiftsDataIn : Obligations.ClockRisingEdgeShiftsDataIn := by
  intro s d hdin
  constructor
  · intro hclk
    rw [pinSet_clk_of_rising (isRisingEdge_of_low hclk), sinkShift_of_din (s := drive .clk true s) hdin]
    rfl
  · exact pinSet_of_high (p := .clk)

/-- Settles O8: a configuration never moves the sink, and of the set-levels only a rising edge of `CLK` or `CS` does. -/
theorem eventsWithoutRisingEdgeLeaveTheSink : Obligations.EventsWithoutRisingEdgeLeaveTheSink :=
  fun s => ⟨fun _ => rfl, fun p => pinSet_of_not_rising (not_isRisingEdge_false p s), fun _ => rfl,
    pinSet_of_high (p := .cs)⟩

/-- Settles O9: `CS` rises, and the latch means what the decoded frame means. -/
theorem latchRunsTheFrameTheSinkHolds : Obligations.LatchRunsTheFrameTheSinkHolds :=
  fun _ _ hcs hd => pinSet_cs_of_decodeFrame (isRisingEdge_of_low hcs) hd

/-- Settles O10: `CS` rises over a frame that addresses no register, and the treatment refuses it. -/
theorem latchOfUnlistedFrameIsRefused : Obligations.LatchOfUnlistedFrameIsRefused := by
  intro s e hcs herror hrefuse
  have hunlisted : SinkReg.ofAddress (frameAddress (drive .cs true s).sinkSr) = none := decodeFrame_error herror
  rw [pinSet_cs_of_rising (isRisingEdge_of_low hcs), sinkLatch_unlisted hunlisted]
  exact latchUnlisted_refuse hrefuse

/-- Settles O28: such a step is refused over an illegal word or for its command's reason, and neither is an address. -/
theorem hostCommandsNeverMeetAnUnlistedAddress : Obligations.HostCommandsNeverMeetAnUnlistedAddress := by
  intro s hhost hstep
  obtain ⟨-, -, -, -, -, hillegal⟩ | ⟨w, rest, i, -, hd, hexec⟩ := step_refused_of_hostOnly hhost hstep
  · cases hillegal
  · exact stopReason_ne_unlistedSinkAddress i _ (stopReason_of_exec_refused (isCommand_of_decodeCommand hd) hexec)

/-- Settles O52, by what the fetch makes of the event: where it closes a listed frame it runs the decoded instruction,
which is what the latch does; in every other case it hands the event on. -/
theorem stepOfAWireEventIsThatPinEvent : Obligations.StepOfAWireEventIsThatPinEvent := by
  intro s e rest hin
  cases hclose : closesFrame e s with
  | false => simp only [step, fetch, hin, hclose, Bool.false_eq_true, if_false]
  | true =>
    cases hd : decodeFrame s.sinkSr with
    | error x => simp only [step, fetch, hin, hclose, hd, if_true]
    | ok i =>
      obtain ⟨rfl, hrise⟩ := eq_set_cs_of_closesFrame hclose
      simp only [step, fetch, hin, hclose, hd, if_true]
      exact (pinSet_cs_of_decodeFrame (s := { s with input := rest }) hrise hd).symm

/-- Settles O11: each digit frame is one write to its own register. -/
theorem digitFramesStoreTheirPattern : Obligations.DigitFramesStoreTheirPattern :=
  fun _ _ => ⟨rfl, rfl, rfl, rfl, rfl, rfl, rfl, rfl⟩

/-- Settles O12: each control frame is one write to its own register. -/
theorem controlFramesStoreTheirByte : Obligations.ControlFramesStoreTheirByte :=
  fun _ _ => ⟨rfl, rfl, rfl, rfl, rfl⟩

/-- Settles O36: the step is the pin event (O52), and the pin event runs the frame (O9). -/
theorem stepRunsTheLatchedFrame : Obligations.StepRunsTheLatchedFrame := by
  intro s rest i hin hcs hd
  rw [stepOfAWireEventIsThatPinEvent s (.set .cs true) rest hin]
  exact latchRunsTheFrameTheSinkHolds { s with input := rest } i hcs hd

end Sys2Proof.Machine
end

section
/-! THEOREMS. The statements of spec/60_exceptions.md, settled. -/

namespace Sys2Proof.Machine

/-- Settles O27: a command is refused for its own check alone (R192), and a frame, being one write to the chip's registers,
is never refused. -/
theorem refusalsAreExactlyTheListedOnes : Obligations.RefusalsAreExactlyTheListedOnes := by
  refine fun i s r => ⟨fun hexec => ?_, exec_refused_of_stopReason⟩
  cases hc : i.isCommand with
  | true => exact stopReason_of_exec_refused hc hexec
  | false =>
    obtain ⟨_, _, hwrite⟩ := exec_frame hc s
    cases hwrite.symm.trans hexec

end Sys2Proof.Machine
end

section
/-! SUPPORT. The digit registers of a display that shows eight patterns (R217). -/

namespace Sys2Proof.Machine

/-- The register at digit position `j` holds pattern `j` (R22). -/
theorem SinkRegs.get_digitOf_withDigits (rs : SinkRegs) (p : Vector Byte 8) (j : Fin 8) :
    (rs.withDigits p).get (digitOf j) = p[j] := by
  fin_cases j <;> rfl

end Sys2Proof.Machine
end

section
/-! THEOREMS. The statements of spec/70_reset_and_hazards.md, settled. -/

namespace Sys2Proof.Machine

/-- Settles O24: FLUSH shows the buffer, and a render shows the patterns it has put there. -/
theorem displayEqualsBufferAfterFlushAndRenders : Obligations.DisplayEqualsBufferAfterFlushAndRenders := by
  intro i v l sl s hinited hi
  obtain rfl | rfl | rfl := hi
  · exact ⟨_, exec_flush hinited, SinkRegs.get_digitOf_withDigits _ _⟩
  · exact ⟨_, exec_renderHex hinited v l sl, SinkRegs.get_digitOf_withDigits _ _⟩
  · exact ⟨_, exec_renderDec hinited v l sl, SinkRegs.get_digitOf_withDigits _ _⟩

/-- Settles O25: the state INIT leaves has a shift register and chip registers of its own, none of them the launch's. -/
theorem initForgetsTheLaunchValuesOfTheSink : Obligations.InitForgetsTheLaunchValuesOfTheSink := by
  intro b sr sr' rs rs' o
  have hafter : (State.resetWith b sr' rs' o).afterInit = (State.resetWith b sr rs o).afterInit := rfl
  exact ⟨_, exec_init rfl, hafter ▸ exec_init rfl⟩

/-- Settles O38: the fetch of no input is idle. -/
theorem stepWithoutInputIsIdle : Obligations.StepWithoutInputIsIdle :=
  fun _ hinput => step_nil hinput

end Sys2Proof.Machine
end
